-- ==== Sys2Proof/Word.lean ====
section
/-! DEFINITION. The word types of the AAC2FLV block (spec/00_scope.md R14, R15): bytes of the two streams,
32-bit command words, timestamps and counters. Every value of the block is unsigned. -/

namespace Sys2Proof

/-- One byte of a stream (R14 `u8`); bit 7 is the most significant (R12). -/
abbrev Byte := BitVec 8

/-- A `u32` (R14): command words, TS, FRAMES, ERR_FRAME and the timestamps of commands and responses. -/
abbrev Word := BitVec 32

end Sys2Proof
end

