-- ==== Sys2Proof/Syntax.lean ====
section
/-! DEFINITION. The command interface of the block as data: the instructions (one constructor per row of
spec/opcode_table.json), the command record of the port (30_encoding.md R80), the response record and its codes and
field ids (R84 to R86), and the 7-byte ADTS header staging buffer (10_state.md R34). -/

namespace Sys2Proof

/-- The commands of the opcode map (30_encoding.md R82), each with its operands: the two flags of WRHDR sit in the
command word (R83); the timestamp and the data bytes of a TAG command travel with it (R80, R88), and its length L is
the number of its data bytes. -/
inductive Instr where
  /-- WRHDR: write the FLV file header (R161); `hasAudio` is A, `hasVideo` is V. -/
  | wrhdr (hasAudio hasVideo : Bool)
  /-- ASC: return the AudioSpecificConfig blob without consuming input (R123). -/
  | asc
  /-- NEXT: read the next ADTS frame (R130). -/
  | next
  /-- GETTS: read the timestamp accumulator (R140). -/
  | getts
  /-- TAG.A: write an FLV audio tag (R166). -/
  | tagA (ts : Word) (data : List Byte)
  /-- TAG.V: write an FLV video tag (R167). -/
  | tagV (ts : Word) (data : List Byte)
  /-- TAG.S: write an FLV script-data tag (R168). -/
  | tagS (ts : Word) (data : List Byte)
deriving DecidableEq, Repr

/-- The three tag types of the framer (R106). -/
inductive TagType where
  | audio
  | video
  | script
deriving DecidableEq, Repr

/-- A command as the port carries it (R80): the command word, and the operands that TAG.A, TAG.V and TAG.S use. -/
structure Cmd where
  word : Word
  ts : Word
  data : List Byte
deriving DecidableEq, Repr

/-- The response codes 0 to 6 (R85); codes 7 to 15 are reserved and never produced. -/
inductive RespCode where
  | ok
  | endOfStream
  | readFailure
  | malformedFrame
  | writeFailure
  | illegalCommand
  | halted
deriving DecidableEq, Repr

/-- The field ids 0 to 9 (R86); ids 10 to 15 are reserved and never produced. -/
inductive FieldId where
  | none
  | frameLength
  | samplingFrequencyIndex
  | headerIo
  | headerTruncated
  | payloadIo
  | payloadTruncated
  | sink
  | opcode
  | reservedBits
deriving DecidableEq, Repr

/-- The response record of one command (R84). -/
structure Resp where
  code : RespCode
  field : FieldId
  frame : Word
  ts : Word
  data : List Byte
deriving DecidableEq, Repr

/-- The 7 bytes of an ADTS header in stream order (R12, R91): the contents of the staging buffer HDR (R34). -/
structure AdtsHeader where
  b0 : Byte
  b1 : Byte
  b2 : Byte
  b3 : Byte
  b4 : Byte
  b5 : Byte
  b6 : Byte
deriving DecidableEq, Repr, Inhabited

end Sys2Proof
end

