-- ==== Sys2Proof/Config.lean ====
section
/-! DEFINITION. What is fixed for one block and written by no command (10_state.md R33, 00_scope.md R10), and the one
free value of the model. -/

namespace Sys2Proof

/-- `SOUND_FORMAT_BYTE` (R11, decision D4): a parameter that the spec leaves open and that the host chooses before the
first command (R223). It has no value here, so a claim holds for every value (log 4). -/
opaque Config.soundFormatByte : Byte

/-- FREE VALUE (log 5). What HDR holds once the command that read a header has ended: "Its content between commands is
unspecified" (R34). The model applies it to a counter, so that no two uses are known to agree. -/
opaque Config.hdrBetween : Nat → AdtsHeader

/-- `AOT`, the audioObjectType of AAC-LC (R10, R33), as the 5-bit field of the AudioSpecificConfig (R98). -/
def Config.aot : BitVec 5 := 2

/-- `SR_TABLE` (R97): the sampling rates in Hz, indexed by samplingFrequencyIndex. -/
def Config.srTable : List Nat :=
  [96000, 88200, 64000, 48000, 44100, 32000, 24000, 22050, 16000, 12000, 11025, 8000, 7350]

/-- `TAG_AUDIO`, `TAG_VIDEO` and `TAG_SCRIPT` (R10, R106): the FLV tag type byte, equal to the command's opcode (R82). -/
def Config.tagCode : TagType → Byte
  | .audio => 0x08
  | .video => 0x09
  | .script => 0x12

/-- `ADTS_HEADER_LEN` (R10). -/
abbrev Config.adtsHeaderLen : Nat := 7

/-- `FLV_TAG_HEADER_LEN` (R10). -/
abbrev Config.flvTagHeaderLen : Nat := 11

/-- `FRAME_BUF_BYTES` (R10, R35): the largest payload NEXT assembles. -/
abbrev Config.frameBufBytes : Nat := 8186

/-- The bound of the 24-bit data-length field of a TAG command word (R83, R88). -/
abbrev Config.tagDataLimit : Nat := 2 ^ 24

end Sys2Proof
end

