-- ==== Sys2Proof/WellFormed.lean ====
section
/-! DEFINITION. Which instructions the interface can express: a TAG command carries L data bytes, and L is the 24-bit
argument of its word (30_encoding.md R83, R88). The other commands have no operand that could be out of range. -/

namespace Sys2Proof

/-- The data of a TAG command fits the 24-bit length field (R88). -/
def tagDataFits (data : List Byte) : Bool :=
  decide (data.length < Config.tagDataLimit)

/-- An instruction that some command of the interface stands for. -/
def wellFormed : Instr → Bool
  | .wrhdr _ _ => true
  | .asc => true
  | .next => true
  | .getts => true
  | .tagA _ data => tagDataFits data
  | .tagV _ data => tagDataFits data
  | .tagS _ data => tagDataFits data

end Sys2Proof
end

