-- ==== Sys2Proof/Decode.lean ====
section
/-! DEFINITION. Decoding a command (30_encoding.md R81, R82, R83, R87, R88), the encoder for the same tables (R89's word
column), and the reading of an opcode-table word as a command. -/

namespace Sys2Proof

/-- Bits 31:24 of the command word (R81). -/
def wordOp (w : Word) : BitVec 8 := w.extractLsb' 24 8

/-- Bits 23:0 of the command word (R81). -/
def wordArg (w : Word) : BitVec 24 := w.extractLsb' 0 24

/-- What Decode (R87) makes of a command word alone. -/
inductive WordMeaning where
  | wrhdr (hasAudio hasVideo : Bool)
  | asc
  | next
  | getts
  /-- A TAG word of type `t` that carries `len` data bytes. -/
  | tag (t : TagType) (len : BitVec 24)
  /-- Not a legal word (R107): `field` is OPCODE or RESERVED_BITS. -/
  | illegal (field : FieldId)
deriving DecidableEq, Repr

/-- A word whose argument must be 0 (ASC, NEXT, GETTS; R83). -/
def bareWord (arg : BitVec 24) (m : WordMeaning) : WordMeaning :=
  if arg = 0 then m else .illegal .reservedBits

/-- Decode of R87, total on every 32-bit word. -/
def decodeWord (w : Word) : WordMeaning :=
  if wordOp w = 0x01 then
    if wordArg w &&& 0xFFFFFA ≠ 0 then .illegal .reservedBits
    else .wrhdr ((wordArg w).getLsbD 2) ((wordArg w).getLsbD 0)
  else if wordOp w = 0x02 then bareWord (wordArg w) .asc
  else if wordOp w = 0x03 then bareWord (wordArg w) .next
  else if wordOp w = 0x04 then bareWord (wordArg w) .getts
  else if wordOp w = 0x08 then .tag .audio (wordArg w)
  else if wordOp w = 0x09 then .tag .video (wordArg w)
  else if wordOp w = 0x12 then .tag .script (wordArg w)
  else .illegal .opcode

/-- The TAG instruction of a tag type (R166 to R168). -/
def tagInstr (t : TagType) (ts : Word) (data : List Byte) : Instr :=
  match t with
  | .audio => .tagA ts data
  | .video => .tagV ts data
  | .script => .tagS ts data

/-- What a command record of the port decodes to. -/
inductive Decoded where
  /-- A legal command. -/
  | instr (i : Instr)
  /-- An illegal word, answered ILLEGAL_COMMAND with this field (R107, R192). -/
  | illegal (field : FieldId)
  /-- A TAG command whose data is not the L bytes its word says: outside the interface (R88). -/
  | badLength
deriving DecidableEq, Repr

/-- Decode of a command record: R87 for its word, and R88's length for the data of a TAG. The operands of the other
commands are not looked at: only TAG.A, TAG.V and TAG.S use them (R80; log 8). -/
def decode (c : Cmd) : Decoded :=
  match decodeWord c.word with
  | .wrhdr a v => .instr (.wrhdr a v)
  | .asc => .instr .asc
  | .next => .instr .next
  | .getts => .instr .getts
  | .tag t len => if c.data.length = len.toNat then .instr (tagInstr t c.ts c.data) else .badLength
  | .illegal field => .illegal field

/-- A command word from its opcode and its argument (R81). -/
def packWord (op : BitVec 8) (arg : BitVec 24) : Word :=
  (op.setWidth 32 <<< 24) ||| arg.setWidth 32

/-- The WRHDR argument (R83): A in bit 2, V in bit 0, every other bit 0. -/
def wrhdrArg (hasAudio hasVideo : Bool) : BitVec 24 :=
  ((BitVec.ofBool hasAudio).setWidth 24 <<< 2) ||| (BitVec.ofBool hasVideo).setWidth 24

/-- The record of a command that carries no operand: `ts` and `data` are 0 and empty (R80). -/
def bareCmd (word : Word) : Cmd := { word := word, ts := 0, data := [] }

/-- The record of a TAG command: opcode and length in the word, then the operands (R88, R89). -/
def tagCmd (op : BitVec 8) (ts : Word) (data : List Byte) : Cmd :=
  { word := packWord op (BitVec.ofNat 24 data.length), ts := ts, data := data }

/-- The command record of an instruction (R82, R83, R89). -/
def encode : Instr → Cmd
  | .wrhdr a v => bareCmd (packWord 0x01 (wrhdrArg a v))
  | .asc => bareCmd (packWord 0x02 0)
  | .next => bareCmd (packWord 0x03 0)
  | .getts => bareCmd (packWord 0x04 0)
  | .tagA ts data => tagCmd 0x08 ts data
  | .tagV ts data => tagCmd 0x09 ts data
  | .tagS ts data => tagCmd 0x12 ts data

/-- `n` data bytes from the low bits of `v`, the first byte lowest. -/
def operandBytes : Nat → Nat → List Byte
  | 0, _ => []
  | n + 1, v => BitVec.ofNat 8 v :: operandBytes n (v >>> 8)

/-- The command whose transfer units, in the order the port carries them (R88: the word, then for a TAG the `ts` word and
the data bytes), have the bits of `w`, numbered from the least significant bit of the word; every bit at `nbits` or
above is 0. -/
def cmdOfBits (nbits w : Nat) : Cmd :=
  let v := w % 2 ^ nbits
  let word : Word := BitVec.ofNat 32 v
  match decodeWord word with
  | .tag _ len => { word := word, ts := BitVec.ofNat 32 (v >>> 32), data := operandBytes len.toNat (v >>> 64) }
  | _ => bareCmd word

/-- The instruction that the decoder reads from an opcode-table word, none where it gives no instruction. -/
def decodeTableWord (nbits w : Nat) : Option Instr :=
  match decode (cmdOfBits nbits w) with
  | .instr i => some i
  | .illegal _ => none
  | .badLength => none

end Sys2Proof
end

