-- ==== Sys2Proof/Machine/State.lean ====
section
/-! DEFINITION. The state of the block (10_state.md R22), the draw of its environment (20_memory.md R51, R59), its command
and response ports (30_encoding.md R80, R84), and the state after reset (R38, R220). -/

namespace Sys2Proof.Machine

/-- How the input source ends after its last byte (20_memory.md R51). -/
inductive Ending where
  /-- End of stream. -/
  | eos
  /-- A read failure. -/
  | ioerr
deriving DecidableEq, Repr

/-- The input source (R51): every byte it will ever deliver, and how it ends. -/
structure Source where
  bytes : List Byte
  ending : Ending
deriving DecidableEq, Repr

/-- The output sink (R59): the bytes it holds, and how many it will ever hold (`none`: it never fails). -/
structure Sink where
  accepted : List Byte
  failAt : Option Nat
deriving DecidableEq, Repr

/-- The state of the machine: one field per row of R22, the environment's draw, the ports, and one field of the model's
own (`unspec`). -/
structure State where
  /-- TS, the cumulative timestamp in ms (R23). -/
  ts : Word
  /-- FRAMES, the number of NEXT commands answered OK since reset, modulo 2^32 (R25). -/
  frames : Word
  /-- IN_POS, the input cursor (R26). -/
  inPos : Nat
  /-- OUT_POS, the number of bytes the sink has accepted (R32). -/
  outPos : Nat
  /-- STATUS, 16 bits (R27). -/
  status : BitVec 16
  /-- ERR_FRAME (R31). -/
  errFrame : Word
  /-- HDR, the hidden header staging buffer (R34). -/
  hdr : AdtsHeader
  /-- FRAME_BUF, the hidden payload buffer (R35). -/
  frameBuf : List Byte
  /-- The input source attached at reset (R51). -/
  src : Source
  /-- The output sink attached at reset (R59). -/
  sink : Sink
  /-- The command port: the commands the host issues, one at a time and in this order (R8, R69); the head is the one the
  block takes next. -/
  cmds : List Cmd
  /-- The responses delivered to the host since reset, oldest first (R84); they are the host's own values (R230). -/
  resps : List Resp
  /-- THE MODEL'S OWN: how many times HDR has been left unspecified (R34; log 5). -/
  unspec : Nat
deriving DecidableEq, Repr

/-- Why the machine could stop with a fault. There is no reason: every error of the block is reported in a response and
leaves a next state (60_exceptions.md R190, R195), so the type is empty. -/
inductive Fault where
deriving DecidableEq, Repr

/-- Why a step gives no next state. -/
inductive Refusal where
  /-- An instruction that has no meaning yet; raised by an arm of `exec` only. Safe: nothing is claimed of it. -/
  | notModelled (mnemonic : String)
  /-- A TAG command whose data is not the L bytes its word says; raised by the command port and by the three TAG meanings
  for data that no length field can express. R88: "The model refuses such a command: it has no meaning and no step".
  Safe: the interface guarantees that no such command arrives (R80). -/
  | operandLength
deriving DecidableEq, Repr

/-- The block right after reset, attached to a new source and a new sink, each at its start (R38, R220, R221). Reset is
the only way out of the halted state (R198). HDR and FRAME_BUF are unspecified by R38; their values here are the
model's (log 2). -/
def State.resetWith (src : Source) (failAt : Option Nat) : State where
  ts := 0
  frames := 0
  inPos := 0
  outPos := 0
  status := 0
  errFrame := 0
  hdr := { b0 := 0, b1 := 0, b2 := 0, b3 := 0, b4 := 0, b5 := 0, b6 := 0 }
  frameBuf := []
  src := src
  sink := { accepted := [], failAt := failAt }
  cmds := []
  resps := []
  unspec := 0

/-- The machine right after reset, with nothing placed: an empty input that ends with end-of-stream and a sink that never
fails (log 1), and no command at the port (R221). -/
def State.reset : State := State.resetWith { bytes := [], ending := .eos } none

end Sys2Proof.Machine
end

