-- ==== Sys2Proof/Machine/Flags.lean ====
section
/-! DEFINITION. STATUS: its fields and how a command writes them (10_state.md R27 to R30, R39), and the numbers of the
response codes and field ids (30_encoding.md R85, R86). -/

namespace Sys2Proof

/-- The number of a response code (R85). -/
def RespCode.bits : RespCode → BitVec 4
  | .ok => 0
  | .endOfStream => 1
  | .readFailure => 2
  | .malformedFrame => 3
  | .writeFailure => 4
  | .illegalCommand => 5
  | .halted => 6

/-- The number of a field id (R86). -/
def FieldId.bits : FieldId → BitVec 4
  | .none => 0
  | .frameLength => 1
  | .samplingFrequencyIndex => 2
  | .headerIo => 3
  | .headerTruncated => 4
  | .payloadIo => 5
  | .payloadTruncated => 6
  | .sink => 7
  | .opcode => 8
  | .reservedBits => 9

/-- The codes that halt the block (R85, R196). -/
def RespCode.fatal : RespCode → Bool
  | .ok => false
  | .endOfStream => false
  | .readFailure => true
  | .malformedFrame => true
  | .writeFailure => true
  | .illegalCommand => true
  | .halted => false

end Sys2Proof

namespace Sys2Proof.Machine

/-- STATUS.CODE, bits 3:0 (R27). -/
def statusCode (st : BitVec 16) : BitVec 4 := st.extractLsb' 0 4

/-- STATUS.FIELD, bits 7:4 (R27). -/
def statusField (st : BitVec 16) : BitVec 4 := st.extractLsb' 4 4

/-- STATUS.EOS, bit 8 (R27, R29). -/
def statusEos (st : BitVec 16) : Bool := st.getLsbD 8

/-- STATUS.HALT, bit 9 (R27, R30). -/
def statusHalt (st : BitVec 16) : Bool := st.getLsbD 9

/-- STATUS bits 15:10, reserved (R27). -/
def statusReserved (st : BitVec 16) : BitVec 6 := st.extractLsb' 10 6

/-- A STATUS value from its fields; the reserved bits are hardwired to 0 (R27). -/
def packStatus (halt eos : Bool) (field code : BitVec 4) : BitVec 16 :=
  ((BitVec.ofBool halt).setWidth 16 <<< 9) ||| ((BitVec.ofBool eos).setWidth 16 <<< 8) |||
    (field.setWidth 16 <<< 4) ||| code.setWidth 16

/-- STATUS after a command answered `code` and `field` (R28), the sticky flags kept. -/
def statusAnswered (st : BitVec 16) (code : RespCode) (field : FieldId) : BitVec 16 :=
  packStatus (statusHalt st) (statusEos st) field.bits code.bits

/-- STATUS with EOS set (R29). -/
def statusWithEos (st : BitVec 16) : BitVec 16 :=
  packStatus (statusHalt st) true (statusField st) (statusCode st)

/-- STATUS with HALT set (R30). -/
def statusWithHalt (st : BitVec 16) : BitVec 16 :=
  packStatus true (statusEos st) (statusField st) (statusCode st)

/-- The block is halted: STATUS.HALT = 1 (R30). -/
def State.isHalted (s : State) : Bool := statusHalt s.status

end Sys2Proof.Machine
end

