-- ==== Sys2Proof/Machine/Ops.lean ====
section
/-! DEFINITION. The operations every command is built from: the port primitives (20_memory.md R55, R57, R62), how a
command ends (`respond`, 00_scope.md R14), TAKING AN ERROR (`raise`, 60_exceptions.md R195) and the HALT check (R194). The
only return from the halted state is reset (R198): `State.resetWith` in Machine/State.lean. -/

namespace Sys2Proof.Machine

open Host (Outcome)

/-- The result of a read or a peek (R55, R57). -/
inductive ReadResult where
  /-- All the bytes that were asked for. -/
  | ok (bytes : List Byte)
  /-- Fewer: the bytes up to the source's end, and how it ended. -/
  | short (bytes : List Byte) (ending : Ending)
deriving DecidableEq, Repr

/-- The bytes the source still has at the cursor (R26, R53). -/
def State.remaining (s : State) : List Byte := s.src.bytes.drop s.inPos

/-- `InPeek(k)` (R57): k bytes at the cursor; nothing is consumed. -/
def State.peek (s : State) (k : Nat) : ReadResult :=
  if k ≤ s.remaining.length then .ok (s.remaining.take k)
  else .short s.remaining s.src.ending

/-- `InReadExact(k)` (R55): the same bytes, and the cursor moves past those delivered. -/
def State.readExact (s : State) (k : Nat) : ReadResult × State :=
  if k ≤ s.remaining.length then (.ok (s.remaining.take k), { s with inPos := s.inPos + k })
  else (.short s.remaining s.src.ending, { s with inPos := s.src.bytes.length })

/-- How many of `n` bytes the sink accepts before it fails (R59, R62). -/
def State.acceptedOf (s : State) (n : Nat) : Nat :=
  match s.sink.failAt with
  | none => n
  | some limit => min n (limit - s.outPos)

/-- The sink has room for `n` more bytes (R62). -/
def State.hasRoom (s : State) (n : Nat) : Bool :=
  match s.sink.failAt with
  | none => true
  | some limit => decide (n ≤ limit - s.outPos)

/-- The state after the sink took the bytes `bs` (R60, R62). -/
def State.append (s : State) (bs : List Byte) : State :=
  { s with sink := { s.sink with accepted := s.sink.accepted ++ bs }, outPos := s.outPos + bs.length }

/-- `OutWrite(bs)` (R62): true for Ok, false for Fail, where the sink keeps what it accepted before it failed. -/
def State.outWrite (s : State) (bs : List Byte) : Bool × State :=
  if s.hasRoom bs.length then (true, s.append bs)
  else (false, s.append (bs.take (s.acceptedOf bs.length)))

/-- The response record goes to the host (R84); a response already delivered is never changed (R35, R230). -/
def State.deliver (s : State) (r : Resp) : State := { s with resps := s.resps ++ [r] }

/-- `respond` (R14): the command ends with the record `r`, and STATUS.CODE and STATUS.FIELD take its code and field
(R28). -/
def State.respond (s : State) (r : Resp) : State :=
  { s with status := statusAnswered s.status r.code r.field }.deliver r

/-- The answer END_OF_STREAM (R123, R130): STATUS.EOS is set, and the command ends. -/
def State.respondEos (s : State) : State :=
  { s with status := statusWithEos s.status }.respond
    { code := .endOfStream, field := .none, frame := s.frames, ts := 0, data := [] }

/-- The errors a command can raise (R191, R196); each of them is fatal. -/
inductive ErrorName where
  | readFailure
  | malformedFrame
  | writeFailure
  | illegalCommand
deriving DecidableEq, Repr

/-- `code(E)` of R195. -/
def ErrorName.code : ErrorName → RespCode
  | .readFailure => .readFailure
  | .malformedFrame => .malformedFrame
  | .writeFailure => .writeFailure
  | .illegalCommand => .illegalCommand

/-- `raise E(f, data = out)` (R195), the one way a command ends in an error: STATUS.CODE and STATUS.FIELD name it, ERR_FRAME
takes FRAMES (R31), HALT is set (R30), and the response carries ERR_FRAME. Everything the command did before stays. -/
def State.raise (s : State) (e : ErrorName) (field : FieldId) (out : List Byte) : State :=
  { s with
    status := statusWithHalt (statusAnswered s.status e.code field)
    errFrame := s.frames }.deliver
    { code := e.code, field := field, frame := s.frames, ts := 0, data := out }

/-- The answer to any command that arrives while HALT = 1 (R197): a HALTED response, and no register changes. -/
def State.answerHalted (s : State) : State :=
  s.deliver { code := .halted, field := .none, frame := s.errFrame, ts := 0, data := [] }

/-- The HALT check every command begins with (R194). -/
def State.unlessHalted (s : State) (run : State → Outcome State Fault Refusal) : Outcome State Fault Refusal :=
  if s.isHalted then .next s.answerHalted else run s

/-- The meaning of an illegal command word (R192): it halts the block and writes no port, TS, FRAMES or IN_POS. -/
def raiseIllegal (field : FieldId) (s : State) : Outcome State Fault Refusal :=
  s.unlessHalted fun s => .next (s.raise .illegalCommand field [])

/-- `HDR <- bytes` (R123, R130) for the 7 bytes of a header. -/
def State.writeHdr (s : State) (bytes : List Byte) : State :=
  { s with hdr :=
    { b0 := bytes.getD 0 0, b1 := bytes.getD 1 0, b2 := bytes.getD 2 0, b3 := bytes.getD 3 0,
      b4 := bytes.getD 4 0, b5 := bytes.getD 5 0, b6 := bytes.getD 6 0 } }

/-- The command that wrote HDR has ended: the content of HDR is unspecified from here on (R34), a free value (log 5). -/
def State.releaseHdr (s : State) : State :=
  { s with hdr := Config.hdrBetween s.unspec, unspec := s.unspec + 1 }

end Sys2Proof.Machine
end

