-- ==== Sys2Proof/Machine/Operands.lean ====
section
/-! DEFINITION. The data formats the block parses and emits (30_encoding.md part B): the fields of an ADTS header (R91 to
R97, R120), the AudioSpecificConfig blob and the frame payload (R98 to R100), the FLV file header (R101, R102) and the FLV tag
(R103 to R105, R164), in the byte orders of 20_memory.md R63. -/

namespace Sys2Proof.Machine

/-- `be24(v)` (R14). -/
def be24 (v : BitVec 24) : List Byte :=
  [v.extractLsb' 16 8, v.extractLsb' 8 8, v.extractLsb' 0 8]

/-- `be32(v)` (R14). -/
def be32 (v : BitVec 32) : List Byte :=
  [v.extractLsb' 24 8, v.extractLsb' 16 8, v.extractLsb' 8 8, v.extractLsb' 0 8]

/-- The four header fields the parser computes (R120). -/
structure HeaderFields where
  /-- samplingFrequencyIndex (R92). -/
  sfi : BitVec 4
  /-- channelConfiguration (R94). -/
  ch : BitVec 3
  /-- frameLength (R93). -/
  fl : BitVec 13
  /-- numRawDataBlocksInFrame (R95). -/
  nrdb : BitVec 2
deriving DecidableEq, Repr

/-- `Fields(h)` (R120, R92 to R95): no other header bit is read (R96). -/
def headerFields (h : AdtsHeader) : HeaderFields where
  sfi := h.b2.extractLsb' 2 4
  ch := ((h.b2.extractLsb' 0 1).setWidth 3 <<< 2) ||| (h.b3.extractLsb' 6 2).setWidth 3
  fl := ((h.b3.extractLsb' 0 2).setWidth 13 <<< 11) ||| (h.b4.setWidth 13 <<< 3) ||| (h.b5.extractLsb' 5 3).setWidth 13
  nrdb := h.b6.extractLsb' 0 2

/-- `SR_TABLE[sfi]`, none for the indices 13 to 15 that the table does not have (R97, R122). -/
def sampleRate (sfi : BitVec 4) : Option Nat := Config.srTable[sfi.toNat]?

/-- The milliseconds a frame adds to TS (R133): truncating division of naturals (90_conflicts.md C1, C2). -/
def frameDuration (nrdb : BitVec 2) (rate : Nat) : Nat :=
  (nrdb.toNat + 1) * 1024 * 1000 / rate

/-- The 16-bit AudioSpecificConfig (R98): AOT, sfi, the zero-extended channel value, and three padding bits 000. -/
def asc16 (sfi : BitVec 4) (ch : BitVec 3) : BitVec 16 :=
  (Config.aot.setWidth 16 <<< 11) ||| (sfi.setWidth 16 <<< 7) ||| ((ch.setWidth 4).setWidth 16 <<< 3)

/-- The 4-byte AudioSpecificConfig blob (R99). -/
def ascBlob (sfi : BitVec 4) (ch : BitVec 3) : List Byte :=
  [Config.soundFormatByte, 0x00, (asc16 sfi ch).extractLsb' 8 8, (asc16 sfi ch).extractLsb' 0 8]

/-- The FLV payload of a frame (R100, R135). -/
def framePayload (raw : List Byte) : List Byte :=
  [Config.soundFormatByte, 0x01] ++ raw

/-- The flags byte of the FLV file header (R102, R162): A is bit 2, V is bit 0. -/
def flvFlags (hasAudio hasVideo : Bool) : Byte :=
  ((BitVec.ofBool hasAudio).setWidth 8 <<< 2) ||| (BitVec.ofBool hasVideo).setWidth 8

/-- The 13 bytes of the FLV file header (R101, R161). -/
def flvHeader (hasAudio hasVideo : Bool) : List Byte :=
  [0x46, 0x4C, 0x56, 0x01, flvFlags hasAudio hasVideo] ++ be32 9 ++ be32 0

/-- `TagBytes(t, ts, d)` (R103, R104, R105, R164): the low 24 bits of the timestamp come before its high 8 bits. -/
def tagBytes (code : Byte) (ts : Word) (data : List Byte) : List Byte :=
  [code]
    ++ be24 (BitVec.ofNat 24 data.length)
    ++ be24 (ts.extractLsb' 0 24)
    ++ [ts.extractLsb' 24 8]
    ++ [0x00, 0x00, 0x00]
    ++ data
    ++ be32 (BitVec.ofNat 32 (Config.flvTagHeaderLen + data.length))

end Sys2Proof.Machine
end

