-- ==== Sys2Proof/Machine/Framer.lean ====
section
/-! DEFINITION. The FLV framer: WRHDR, TAG.A, TAG.V and TAG.S (41_flv_framer.md). -/

namespace Sys2Proof.Machine

open Host (Outcome)

/-- One `OutWrite` of everything a framer command emits (R62, R161, R165): OK, or WRITE_FAILURE with the accepted bytes left
in the sink (R170). -/
def State.emit (s : State) (bs : List Byte) : State :=
  match s.outWrite bs with
  | (true, s) => s.respond { code := .ok, field := .none, frame := s.frames, ts := 0, data := [] }
  | (false, s) => s.raise .writeFailure .sink []

/-- WRHDR (R161 to R163): write the FLV file header, at any time and any number of times. -/
def execWrhdr (hasAudio hasVideo : Bool) (s : State) : Outcome State Fault Refusal :=
  s.unlessHalted fun s => .next (s.emit (flvHeader hasAudio hasVideo))

/-- A TAG command of type `t` (R165). Data that no 24-bit length can express is no command of the interface and is refused
(R88; log 9). -/
def writeTag (t : TagType) (ts : Word) (data : List Byte) (s : State) : Outcome State Fault Refusal :=
  if tagDataFits data then s.unlessHalted fun s => .next (s.emit (tagBytes (Config.tagCode t) ts data))
  else .refused .operandLength

/-- TAG.A (R166): write an FLV audio tag. -/
def execTagA (ts : Word) (data : List Byte) (s : State) : Outcome State Fault Refusal := writeTag .audio ts data s

/-- TAG.V (R167): write an FLV video tag. -/
def execTagV (ts : Word) (data : List Byte) (s : State) : Outcome State Fault Refusal := writeTag .video ts data s

/-- TAG.S (R168): write an FLV script-data tag. -/
def execTagS (ts : Word) (data : List Byte) (s : State) : Outcome State Fault Refusal := writeTag .script ts data s

end Sys2Proof.Machine
end

