-- ==== Sys2Proof/Machine/Parser.lean ====
section
/-! DEFINITION. The ADTS parser: ASC, NEXT and GETTS (40_adts_parser.md). -/

namespace Sys2Proof.Machine

open Host (Outcome)

/-- How a command ends when its header read came back short (R121, R126): END_OF_STREAM at a clean end of the stream,
READ_FAILURE otherwise. -/
def State.endShortHeader (s : State) (out : List Byte) (e : Ending) : State :=
  match e, out with
  | .eos, [] => s.respondEos
  | .ioerr, _ => s.raise .readFailure .headerIo []
  | .eos, _ :: _ => s.raise .readFailure .headerTruncated []

/-- ASC on a header (R123): only the sampling-frequency index is checked (R125). -/
def State.answerAsc (s : State) (f : HeaderFields) : State :=
  match sampleRate f.sfi with
  | none => s.raise .malformedFrame .samplingFrequencyIndex []
  | some _ => s.respond { code := .ok, field := .none, frame := s.frames, ts := 0, data := ascBlob f.sfi f.ch }

/-- ASC (R123 to R129): the blob for the header at the cursor, nothing consumed. -/
def execAsc (s : State) : Outcome State Fault Refusal :=
  s.unlessHalted fun s =>
    match s.peek Config.adtsHeaderLen with
    | .short out e => .next (s.endShortHeader out e)
    | .ok bytes =>
      let s := s.writeHdr bytes
      .next (s.answerAsc (headerFields s.hdr)).releaseHdr

/-- The field of a payload read that came back short (R137). -/
def payloadField : Ending → FieldId
  | .ioerr => .payloadIo
  | .eos => .payloadTruncated

/-- TS after a frame header was accepted (R134): addition modulo 2^32. -/
def State.advanceTs (s : State) (dur : Nat) : State := { s with ts := s.ts + BitVec.ofNat 32 dur }

/-- The end of a NEXT whose payload `raw` was read (R135, R136): FRAME_BUF, FRAMES, and the answer that carries the frame's
index, the timestamp after the increment and the payload. -/
def State.returnFrame (s : State) (raw : List Byte) : State :=
  { s with frameBuf := framePayload raw, frames := s.frames + 1 }.respond
    { code := .ok, field := .none, frame := s.frames, ts := s.ts, data := framePayload raw }

/-- The payload read of NEXT (R137): a short one fails, and the response carries the bytes already consumed. -/
def State.readPayload (s : State) (len : Nat) : State :=
  match s.readExact len with
  | (.short out e, s) => s.raise .readFailure (payloadField e) out
  | (.ok raw, s) => s.returnFrame raw

/-- NEXT after its header was read (R130): frameLength is checked first, then the sampling-frequency index (R132), and TS
advances before the payload is read (R134). -/
def State.answerNext (s : State) (f : HeaderFields) : State :=
  if f.fl.toNat < Config.adtsHeaderLen then s.raise .malformedFrame .frameLength []
  else
    match sampleRate f.sfi with
    | none => s.raise .malformedFrame .samplingFrequencyIndex []
    | some rate => (s.advanceTs (frameDuration f.nrdb rate)).readPayload (f.fl.toNat - Config.adtsHeaderLen)

/-- NEXT (R130 to R138): read one ADTS frame. -/
def execNext (s : State) : Outcome State Fault Refusal :=
  s.unlessHalted fun s =>
    match s.readExact Config.adtsHeaderLen with
    | (.short out e, s) => .next (s.endShortHeader out e)
    | (.ok bytes, s) =>
      let s := s.writeHdr bytes
      .next (s.answerNext (headerFields s.hdr)).releaseHdr

/-- GETTS (R140): the timestamp accumulator. -/
def execGetts (s : State) : Outcome State Fault Refusal :=
  s.unlessHalted fun s =>
    .next (s.respond { code := .ok, field := .none, frame := s.frames, ts := s.ts, data := [] })

end Sys2Proof.Machine
end

