-- ==== Sys2Proof/Machine/Dispatch.lean ====
section
/-! DEFINITION. One arm per instruction: the meaning each of them has. -/

namespace Sys2Proof.Machine

def exec (i : Instr) (s : State) : Host.Outcome State Fault Refusal :=
  match i with
  | .wrhdr hasAudio hasVideo => Sys2Proof.Machine.execWrhdr hasAudio hasVideo s
  | .asc => Sys2Proof.Machine.execAsc s
  | .next => Sys2Proof.Machine.execNext s
  | .getts => Sys2Proof.Machine.execGetts s
  | .tagA ts data => Sys2Proof.Machine.execTagA ts data s
  | .tagV ts data => Sys2Proof.Machine.execTagV ts data s
  | .tagS ts data => Sys2Proof.Machine.execTagS ts data s

end Sys2Proof.Machine
end

