-- ==== Sys2Proof/Machine/CommandPort.lean ====
section
/-! DEFINITION. The command port: `Step(cmd)` of 60_exceptions.md R194, and placing a command at the port. -/

namespace Sys2Proof.Machine

open Host (Outcome)

/-- `Step(cmd)` (R194) on a command the port accepted. The HALT check stands at the head of every meaning, the illegal word's
among them, and decoding reads no state, so a halted block answers HALTED whatever the word is (R193, R197). A TAG with the
wrong number of data bytes is outside the interface and is not accepted at all (R88; log 9). -/
def runCommand (c : Cmd) (s : State) : Outcome State Fault Refusal :=
  match decode c with
  | .instr i => exec i s
  | .illegal field => raiseIllegal field s
  | .badLength => .refused .operandLength

/-- The block takes the command at the head of the port and runs it (R8, R224). With no command at the port it waits, and
nothing changes (R221; log 7). -/
def takeCommand (s : State) : Outcome State Fault Refusal :=
  match s.cmds with
  | [] => .next s
  | c :: rest => runCommand c { s with cmds := rest }

/-- The host puts a command at the head of the port (R8). -/
def State.present (s : State) (c : Cmd) : State := { s with cmds := c :: s.cmds }

end Sys2Proof.Machine
end

