-- ==== Sys2Proof/Machine/Step.lean ====
section
/-! DEFINITION. One step of the machine: one command of the host (00_scope.md R8), and the state in which an opcode-table word
is the next command. -/

namespace Sys2Proof.Machine

/-- One step: the block takes the next command from the port and answers it (R8, R194). -/
def step (s : State) : Host.Outcome State Fault Refusal := takeCommand s

/-- `s` with the command of an opcode-table word as the next one at the port (log 6). -/
def State.withFetchWord (s : State) (nbits w : Nat) : State := s.present (cmdOfBits nbits w)

end Sys2Proof.Machine
end

