-- ==== Sys2Proof/Machine/Driver.lean ====
section
/-! DEFINITION. The host's side of the protocol (70_reset_and_hazards.md R224 to R226, R229) and the pseudo-instructions, which
are host macros over the real commands (30_encoding.md R90). -/

namespace Sys2Proof.Machine

open Host (Outcome)

/-- The host issues one command and waits for its response (R224). -/
def issue (i : Instr) (s : State) : Outcome State Fault Refusal := step (s.present (encode i))

/-- The response the host got last (R84). -/
def State.lastResp (s : State) : Option Resp := s.resps.getLast?

/-- The host goes on with `next` if the last response has one of the codes `goOn`, and stops otherwise (R90). -/
def onAnswer (goOn : List RespCode) (o : Outcome State Fault Refusal)
    (next : Resp → State → Outcome State Fault Refusal) : Outcome State Fault Refusal :=
  match o with
  | .next s =>
    match s.lastResp with
    | some r => if r.code ∈ goOn then next r s else .next s
    | none => .next s
  | .fault f => .fault f
  | .refused r => .refused r

/-- ASC, then the configuration tag with the data ASC answered and timestamp 0 (R90, R225, R229), where ASC answered one of the
codes `goOn`. -/
def configTag (goOn : List RespCode) (s : State) : Outcome State Fault Refusal :=
  onAnswer goOn (issue .asc s) fun c s => issue (.tagA 0 c.data) s

/-- CFGTAG on its own (R90): a macro stops at the first response that is not OK. -/
def cfgTag (s : State) : Outcome State Fault Refusal := configTag [.ok] s

/-- FRAMETAG (R90): one frame, its timestamp and payload passed on unchanged (R229). -/
def frameTag (s : State) : Outcome State Fault Refusal :=
  onAnswer [.ok] (issue .next s) fun f s => issue (.tagA f.ts f.data) s

/-- The loop of CONVERT (R90, R225), at most `n` frames. -/
def frameLoop : Nat → State → Outcome State Fault Refusal
  | 0, s => .next s
  | n + 1, s => onAnswer [.ok] (frameTag s) fun _ s => frameLoop n s

/-- CONVERT (R90, R225): header, configuration tag, then a tag for every frame until a NEXT answers END_OF_STREAM. Every frame
takes at least one input byte, so one round more than there are bytes is enough. It stops only at a code that is neither OK nor
END_OF_STREAM (R90), so step 3 of R225 follows an ASC answered END_OF_STREAM too, with its empty data (log 12). -/
def convert (s : State) : Outcome State Fault Refusal :=
  onAnswer [.ok] (issue (.wrhdr true false) s) fun _ s =>
    onAnswer [.ok] (configTag [.ok, .endOfStream] s) fun _ s => frameLoop (s.remaining.length + 1) s

end Sys2Proof.Machine
end

