-- ==== Sys2Proof/Machine/Retry.lean ====
section
/-! DEFINITION. The read of the source in chunks (20_memory.md R52 to R54): the block asks again until it has the bytes it
wants or the source signals its ending. `State.readExact` is the same read without the chunks. -/

namespace Sys2Proof.Machine

/-- The retry loop of R52: `wanted` bytes are still missing and `got` are there. Each entry of the list is how many bytes the
source offers at one attempt. An attempt that delivers nothing is no ending (R54). No answer: the source has not delivered
enough yet, and the command has not completed (R54, R202). -/
def readLoop : List Nat → Nat → State → List Byte → Option (ReadResult × State)
  | [], wanted, s, got => if wanted = 0 then some (.ok got, s) else none
  | chunk :: later, wanted, s, got =>
    if wanted = 0 then some (.ok got, s)
    else if s.remaining = [] then some (.short got s.src.ending, s)
    else
      let n := min chunk (min wanted s.remaining.length)
      readLoop later (wanted - n) { s with inPos := s.inPos + n } (got ++ s.remaining.take n)

end Sys2Proof.Machine
end

