-- ==== Sys2Proof/Safety.lean ====
section
/-! DEFINITION. The terms the claims are stated in: the invariants of the machine, what a conversion ends in (70_reset_and_hazards.md
R226), and the formats of 30_encoding.md written a second time, in plain arithmetic on numbers, so that a claim compares the
model's bit operations with them. -/

namespace Sys2Proof.Machine

/-- The streams agree with the positions: OUT_POS counts the accepted bytes (R32, R59), the sink never holds more than it accepts
(R59), the cursor is inside the input (R55), and FRAME_BUF is within its bound (R35). -/
def State.StreamsOk (s : State) : Prop :=
  s.outPos = s.sink.accepted.length ∧ (∀ n, s.sink.failAt = some n → s.outPos ≤ n) ∧
    s.inPos ≤ s.src.bytes.length ∧ s.frameBuf.length ≤ Config.frameBufBytes

/-- The codes that STATUS.CODE and STATUS.FIELD may hold together (R85, R86, R191), as numbers. -/
def legalPairs : List (Nat × Nat) :=
  [(0, 0), (1, 0), (2, 3), (2, 4), (2, 5), (2, 6), (3, 1), (3, 2), (4, 7), (5, 8), (5, 9)]

/-- The control registers are as R27 to R31 leave them: the reserved bits are 0, CODE and FIELD are a legal pair, HALT is set
exactly while CODE is a fatal code, CODE = 1 only with EOS set, and ERR_FRAME is 0 until the block halts and FRAMES from then
on. -/
def State.ControlOk (s : State) : Prop :=
  s.status.toNat / 2 ^ 10 = 0 ∧
    (s.status.toNat % 16, s.status.toNat / 16 % 16) ∈ legalPairs ∧
    (s.isHalted = true ↔ 2 ≤ s.status.toNat % 16) ∧
    (s.status.toNat % 16 = 1 → s.status.toNat / 2 ^ 8 % 2 = 1) ∧
    s.errFrame = if s.isHalted then s.frames else 0

/-- A response that returned a frame: code OK, and data whose second byte is the raw-data marker 0x01 (R100). -/
def Resp.isFrame (r : Resp) : Bool :=
  decide (r.code = .ok) && decide (r.data[1]? = some 0x01)

/-- FRAMES counts the frames returned since reset, modulo 2^32 (R25). -/
def State.FramesCounted (s : State) : Prop :=
  s.frames = BitVec.ofNat 32 (s.resps.countP Resp.isFrame)

/-- A conversion ended in success (R226): the last answer is END_OF_STREAM, and the block is not halted. -/
def State.Succeeded (s : State) : Prop :=
  s.isHalted = false ∧ ∃ r, s.lastResp = some r ∧ r.code = .endOfStream

/-- The big-endian bytes of a number, `n` of them (R14, R63). -/
def bytesOfNat : Nat → Nat → List Byte
  | 0, _ => []
  | n + 1, v => BitVec.ofNat 8 (v / 256 ^ n) :: bytesOfNat n v

/-- The FLV file header of R101 and R102. -/
def specFlvHeader (hasAudio hasVideo : Bool) : List Byte :=
  [0x46, 0x4C, 0x56, 0x01, (if hasAudio then 4 else 0) + (if hasVideo then 1 else 0),
    0, 0, 0, 9, 0, 0, 0, 0]

/-- The FLV tag of R103. -/
def specTag (code : Byte) (ts : Word) (data : List Byte) : List Byte :=
  code :: bytesOfNat 3 data.length ++ bytesOfNat 3 (ts.toNat % 2 ^ 24) ++ bytesOfNat 1 (ts.toNat / 2 ^ 24)
    ++ [0, 0, 0] ++ data ++ bytesOfNat 4 (11 + data.length)

/-- The bytes a framer command emits (R66), none for the other commands. -/
def specEmits : Instr → List Byte
  | .wrhdr a v => specFlvHeader a v
  | .asc => []
  | .next => []
  | .getts => []
  | .tagA ts data => specTag 0x08 ts data
  | .tagV ts data => specTag 0x09 ts data
  | .tagS ts data => specTag 0x12 ts data

/-- A command of the FLV framer (R1, R17). -/
def isFramer : Instr → Bool
  | .wrhdr _ _ => true
  | .asc => false
  | .next => false
  | .getts => false
  | .tagA _ _ => true
  | .tagV _ _ => true
  | .tagS _ _ => true

/-- A frame of the input: the 7 bytes of its header, and the bytes after them. -/
structure InputFrame where
  header : AdtsHeader
  raw : List Byte
deriving DecidableEq, Repr

/-- The bytes of a header in stream order (R12). -/
def headerBytes (h : AdtsHeader) : List Byte := [h.b0, h.b1, h.b2, h.b3, h.b4, h.b5, h.b6]

/-- samplingFrequencyIndex as a number (R92). -/
def specSfi (h : AdtsHeader) : Nat := h.b2.toNat / 4 % 16

/-- channelConfiguration as a number (R94). -/
def specCh (h : AdtsHeader) : Nat := h.b2.toNat % 2 * 4 + h.b3.toNat / 64

/-- frameLength as a number (R93). -/
def specFrameLength (h : AdtsHeader) : Nat := h.b3.toNat % 4 * 2048 + h.b4.toNat * 8 + h.b5.toNat / 32

/-- The number of 1024-sample blocks of the frame (R95). -/
def specBlocks (h : AdtsHeader) : Nat := h.b6.toNat % 4 + 1

/-- The sampling rates of R97, by samplingFrequencyIndex. -/
def specRate (sfi : Nat) : Option Nat :=
  [96000, 88200, 64000, 48000, 44100, 32000, 24000, 22050, 16000, 12000, 11025, 8000, 7350][sfi]?

/-- The milliseconds of a frame (R133), 0 where its rate does not exist. -/
def specDuration (h : AdtsHeader) : Nat :=
  match specRate (specSfi h) with
  | some rate => specBlocks h * 1024 * 1000 / rate
  | none => 0

/-- A header that R108 does not call malformed. -/
def specHeaderOk (h : AdtsHeader) : Prop := 7 ≤ specFrameLength h ∧ specSfi h ≤ 12

/-- A well-formed frame (R139): its header is, and as many bytes follow it as frameLength says. -/
def InputFrame.Ok (f : InputFrame) : Prop :=
  specHeaderOk f.header ∧ specFrameLength f.header = 7 + f.raw.length

/-- A frame as it stands in the input. -/
def InputFrame.bytes (f : InputFrame) : List Byte := headerBytes f.header ++ f.raw

/-- The total duration of frames in milliseconds. -/
def specTotal (fs : List InputFrame) : Nat := (fs.map fun f => specDuration f.header).sum

/-- The total length of frames in bytes. -/
def specLength (fs : List InputFrame) : Nat := (fs.map fun f => specFrameLength f.header).sum

/-- The answers NEXT gives to frames that follow each other (R130, R136), from TS = `ts` and FRAMES = `frames` on. -/
def specAnswers (ts frames : Word) : List InputFrame → List Resp
  | [] => []
  | f :: later =>
    let ts := ts + BitVec.ofNat 32 (specDuration f.header)
    { code := .ok, field := .none, frame := frames, ts := ts, data := Config.soundFormatByte :: 0x01 :: f.raw } ::
      specAnswers ts (frames + 1) later

/-- The output of the driver for frames that follow each other (R225): one audio tag each. -/
def specFrameTags (ts : Word) : List InputFrame → List Byte
  | [] => []
  | f :: later =>
    let ts := ts + BitVec.ofNat 32 (specDuration f.header)
    specTag 0x08 ts (Config.soundFormatByte :: 0x01 :: f.raw) ++ specFrameTags ts later

/-- The AudioSpecificConfig blob of a header (R98, R99). -/
def specAscBlob (h : AdtsHeader) : List Byte :=
  [Config.soundFormatByte, 0x00, BitVec.ofNat 8 (2 * 8 + specSfi h / 2),
    BitVec.ofNat 8 (specSfi h % 2 * 128 + specCh h * 8)]

end Sys2Proof.Machine
end

