-- ==== Sys2Proof/Certificates/Slice0/Obligations.lean ====
section
/-! DEFINITION. The statements for the provers. Each docstring names the rule of spec/ it formalises. A premise `isHalted s = false` is
R194's condition for a command to run at all; `∃ h n` in a result leaves HDR (unspecified between commands, R34) and the model's
own counter open. That a command, or a run of commands, completes rests on R54's premise that every port answers in the end
(log 13). -/

open Sys2Proof Sys2Proof.Machine

/-! ### Decoding and encoding -/

/-- The decoder gives back every well-formed instruction, with every operand, from its encoding (R82, R83, R87, R88). -/
def Obligations.DecodeEncodeAgree : Prop :=
  ∀ i : Instr, wellFormed i = true → decode (encode i) = .instr i

/-- A command that decodes to an instruction is that instruction's encoding: its word always, and the whole record for a TAG
(R80: the other commands carry no operand; that the decoder does not look at theirs is the model's, log 8). -/
def Obligations.EncodeDecodeAgree : Prop :=
  ∀ (c : Cmd) (i : Instr), decode c = .instr i →
    wellFormed i = true ∧ (encode i).word = c.word ∧
      (∀ ts data, i = .tagA ts data ∨ i = .tagV ts data ∨ i = .tagS ts data → encode i = c)

/-- Which words are illegal, and with which field (R107, R87). -/
def Obligations.IllegalWordsExactly : Prop :=
  ∀ c : Cmd,
    (decode c = .illegal .opcode ↔ c.word.toNat / 2 ^ 24 ∉ [0x01, 0x02, 0x03, 0x04, 0x08, 0x09, 0x12]) ∧
    (decode c = .illegal .reservedBits ↔
      c.word.toNat / 2 ^ 24 = 0x01 ∧ c.word &&& 0x00FFFFFA ≠ 0 ∨
      c.word.toNat / 2 ^ 24 ∈ [0x02, 0x03, 0x04] ∧ c.word.toNat % 2 ^ 24 ≠ 0) ∧
    (∀ f, decode c = .illegal f → f = .opcode ∨ f = .reservedBits) ∧
    (c.word.toNat / 2 ^ 24 ∈ [0x08, 0x09, 0x12] → c.data.length = c.word.toNat % 2 ^ 24 → ∃ i, decode c = .instr i)

/-- A few words of R89 decode to the commands they stand for. -/
def Obligations.WordsOfTheSpecDecode : Prop :=
  decode { word := 0x01000004, ts := 0, data := [] } = .instr (.wrhdr true false) ∧
  decode { word := 0x01000001, ts := 0, data := [] } = .instr (.wrhdr false true) ∧
  decode { word := 0x02000000, ts := 0, data := [] } = .instr .asc ∧
  decode { word := 0x03000000, ts := 0, data := [] } = .instr .next ∧
  decode { word := 0x04000000, ts := 0, data := [] } = .instr .getts ∧
  decode { word := 0x08000002, ts := 0x01020304, data := [0xAA, 0xBB] } = .instr (.tagA 0x01020304 [0xAA, 0xBB]) ∧
  decode { word := 0x09000000, ts := 0, data := [] } = .instr (.tagV 0 []) ∧
  decode { word := 0x12000001, ts := 0xFF000000, data := [0x02] } = .instr (.tagS 0xFF000000 [0x02])

/-- The word column of R89, for every length a TAG can have. -/
def Obligations.EncodedWords : Prop :=
  (encode (.wrhdr false false)).word = 0x01000000 ∧ (encode (.wrhdr true false)).word = 0x01000004 ∧
  (encode (.wrhdr false true)).word = 0x01000001 ∧ (encode (.wrhdr true true)).word = 0x01000005 ∧
  (encode .asc).word = 0x02000000 ∧ (encode .next).word = 0x03000000 ∧ (encode .getts).word = 0x04000000 ∧
  ∀ (ts : Word) (data : List Byte), data.length < 2 ^ 24 →
    encode (.tagA ts data) = { word := 0x08000000 ||| BitVec.ofNat 32 data.length, ts := ts, data := data } ∧
    encode (.tagV ts data) = { word := 0x09000000 ||| BitVec.ofNat 32 data.length, ts := ts, data := data } ∧
    encode (.tagS ts data) = { word := 0x12000000 ||| BitVec.ofNat 32 data.length, ts := ts, data := data }

/-! ### The step -/

/-- A step takes the command at the head of the port and runs the instruction it decodes to (R8, R194). -/
def Obligations.StepRunsDecodedInstruction : Prop :=
  ∀ (s : State) (c : Cmd) (rest : List Cmd) (i : Instr),
    s.cmds = c :: rest → decode c = .instr i → step s = exec i { s with cmds := rest }

/-- THE MODEL'S CHOICE (log 7; R221 says the block waits for a command): with no command at the port, a step changes
nothing. -/
def Obligations.IdleStepChangesNothing : Prop :=
  ∀ s : State, s.cmds = [] → step s = .next s

/-- An illegal word halts the block and changes nothing else (R192). -/
def Obligations.IllegalWordHalts : Prop :=
  ∀ (s : State) (c : Cmd) (rest : List Cmd), s.isHalted = false → s.cmds = c :: rest →
    (decode c = .illegal .opcode →
      step s = .next { s with
        cmds := rest, status := (s.status &&& 0x0100) ||| 0x0285, errFrame := s.frames,
        resps := s.resps ++ [{ code := .illegalCommand, field := .opcode, frame := s.frames, ts := 0, data := [] }] }) ∧
    (decode c = .illegal .reservedBits →
      step s = .next { s with
        cmds := rest, status := (s.status &&& 0x0100) ||| 0x0295, errFrame := s.frames,
        resps := s.resps ++
          [{ code := .illegalCommand, field := .reservedBits, frame := s.frames, ts := 0, data := [] }] })

/-- While HALT = 1 every command, legal or not, is answered HALTED, and nothing changes (R197). A record whose data is not the L
bytes of its word is no command of the interface (R88). -/
def Obligations.HaltedBlockAnswersHalted : Prop :=
  ∀ (s : State) (c : Cmd) (rest : List Cmd), s.isHalted = true → s.cmds = c :: rest → decode c ≠ .badLength →
    step s = .next { s with
      cmds := rest
      resps := s.resps ++ [{ code := .halted, field := .none, frame := s.errFrame, ts := 0, data := [] }] }

/-- The HALT check stands at the head of every instruction (R194, R197). -/
def Obligations.EveryInstructionChecksHalt : Prop :=
  ∀ (i : Instr) (s : State), wellFormed i = true → s.isHalted = true →
    exec i s = .next { s with
      resps := s.resps ++ [{ code := .halted, field := .none, frame := s.errFrame, ts := 0, data := [] }] }

/-- A TAG whose data is not the L bytes of its word is refused, and so is TAG data that no word can announce (R88). That a halted block
refuses it too, and the second clause, are the model's (log 9). -/
def Obligations.WrongLengthTagRefused : Prop :=
  (∀ (s : State) (c : Cmd) (rest : List Cmd), s.cmds = c :: rest →
    c.word.toNat / 2 ^ 24 ∈ [0x08, 0x09, 0x12] → c.data.length ≠ c.word.toNat % 2 ^ 24 →
    step s = .refused .operandLength) ∧
  (∀ (s : State) (ts : Word) (data : List Byte), 2 ^ 24 ≤ data.length →
    exec (.tagA ts data) s = .refused .operandLength ∧ exec (.tagV ts data) s = .refused .operandLength ∧
      exec (.tagS ts data) s = .refused .operandLength)

/-- Every command of the interface ends with exactly one response (R84, R193). -/
def Obligations.EveryCommandIsAnsweredOnce : Prop :=
  ∀ (s : State) (c : Cmd) (rest : List Cmd), s.cmds = c :: rest → decode c ≠ .badLength →
    ∃ t r, step s = .next t ∧ t.cmds = rest ∧ t.resps = s.resps ++ [r]

/-! ### The FLV framer -/

/-- WRHDR writes the 13-byte header of R101 and answers OK; nothing else changes (R161, R162). -/
def Obligations.WrhdrWritesFlvHeader : Prop :=
  ∀ (hasAudio hasVideo : Bool) (s : State), s.isHalted = false →
    (∀ n, s.sink.failAt = some n → s.outPos + 13 ≤ n) →
    exec (.wrhdr hasAudio hasVideo) s = .next { s with
      outPos := s.outPos + 13
      sink := { s.sink with accepted := s.sink.accepted ++ specFlvHeader hasAudio hasVideo }
      status := s.status &&& 0x0300
      resps := s.resps ++ [{ code := .ok, field := .none, frame := s.frames, ts := 0, data := [] }] }

/-- TAG.A, TAG.V and TAG.S write the tag of R103 with their type code and answer OK; nothing else changes (R165 to R168). -/
def Obligations.TagsWriteFlvTag : Prop :=
  ∀ (ts : Word) (data : List Byte) (s : State), s.isHalted = false → data.length < 2 ^ 24 →
    (∀ n, s.sink.failAt = some n → s.outPos + (15 + data.length) ≤ n) →
    let after := fun code : Byte =>
      { s with
        outPos := s.outPos + (15 + data.length)
        sink := { s.sink with accepted := s.sink.accepted ++ specTag code ts data }
        status := s.status &&& 0x0300
        resps := s.resps ++ [{ code := .ok, field := .none, frame := s.frames, ts := 0, data := [] }] }
    exec (.tagA ts data) s = .next (after 0x08) ∧ exec (.tagV ts data) s = .next (after 0x09) ∧
      exec (.tagS ts data) s = .next (after 0x12)

/-- A sink that fails inside the bytes of a WRHDR or TAG keeps those before its fail point; the answer is WRITE_FAILURE(SINK), and
the block halts (R170). -/
def Obligations.SinkFailureKeepsAcceptedBytes : Prop :=
  ∀ (i : Instr) (s : State) (n : Nat), isFramer i = true → wellFormed i = true → s.isHalted = false →
    s.sink.failAt = some n → s.outPos ≤ n → n < s.outPos + (specEmits i).length →
    exec i s = .next { s with
      outPos := n
      sink := { s.sink with accepted := s.sink.accepted ++ (specEmits i).take (n - s.outPos) }
      status := (s.status &&& 0x0100) ||| 0x0274
      errFrame := s.frames
      resps := s.resps ++ [{ code := .writeFailure, field := .sink, frame := s.frames, ts := 0, data := [] }] }

/-- The timestamp bytes of a tag: the low 24 bits big-endian, then the high 8 bits (R104); and the trailer is be32(11 + L), which
never wraps (R105). -/
def Obligations.TagTimestampAndTrailer : Prop :=
  ∀ (code : Byte) (ts : Word) (data : List Byte), data.length < 2 ^ 24 →
    (tagBytes code ts data).length = 15 + data.length ∧
    ((tagBytes code ts data).drop 4).take 4 =
      [BitVec.ofNat 8 (ts.toNat / 2 ^ 16), BitVec.ofNat 8 (ts.toNat / 2 ^ 8), BitVec.ofNat 8 ts.toNat,
        BitVec.ofNat 8 (ts.toNat / 2 ^ 24)] ∧
    (tagBytes code ts data).drop (11 + data.length) = bytesOfNat 4 (11 + data.length) ∧ 11 + data.length ≤ 0x0100000A

/-! ### The ADTS parser -/

/-- ASC returns the blob of the header at the cursor and consumes nothing; frameLength is not checked (R123, R125, R127). -/
def Obligations.AscReturnsBlob : Prop :=
  ∀ (s : State) (hd : AdtsHeader) (later : List Byte), s.isHalted = false →
    s.src.bytes.drop s.inPos = headerBytes hd ++ later → specSfi hd ≤ 12 →
    ∃ h n, exec .asc s = .next { s with
      status := s.status &&& 0x0300
      resps := s.resps ++ [{ code := .ok, field := .none, frame := s.frames, ts := 0, data := specAscBlob hd }]
      hdr := h, unspec := n }

/-- ASC on a header with an index of 13 to 15 is MALFORMED_FRAME(SAMPLING_FREQUENCY_INDEX) (R122, R123). -/
def Obligations.AscRejectsBadIndex : Prop :=
  ∀ (s : State) (hd : AdtsHeader) (later : List Byte), s.isHalted = false →
    s.src.bytes.drop s.inPos = headerBytes hd ++ later → 13 ≤ specSfi hd →
    ∃ h n, exec .asc s = .next { s with
      status := (s.status &&& 0x0100) ||| 0x0223
      errFrame := s.frames
      resps := s.resps ++
        [{ code := .malformedFrame, field := .samplingFrequencyIndex, frame := s.frames, ts := 0, data := [] }]
      hdr := h, unspec := n }

/-- A header read that comes back short, for ASC and for NEXT: nothing left and end-of-stream is END_OF_STREAM; a read failure is
READ_FAILURE(HEADER_IO); end-of-stream after 1 to 6 bytes is READ_FAILURE(HEADER_TRUNCATED) (R121). NEXT has consumed the bytes,
ASC has not (R55, R57). That HDR, unspecified between commands (R34), is unchanged afterwards is the model's (log 5). -/
def Obligations.ShortHeaderClassified : Prop :=
  ∀ (s : State), s.isHalted = false → s.inPos ≤ s.src.bytes.length → s.src.bytes.length < s.inPos + 7 →
    (s.inPos = s.src.bytes.length → s.src.ending = .eos →
      let t := { s with
        status := (s.status &&& 0x0200) ||| 0x0101
        resps := s.resps ++ [{ code := .endOfStream, field := .none, frame := s.frames, ts := 0, data := [] }] }
      exec .asc s = .next t ∧ exec .next s = .next t) ∧
    (s.src.ending = .ioerr →
      let t := { s with
        status := (s.status &&& 0x0100) ||| 0x0232
        errFrame := s.frames
        resps := s.resps ++ [{ code := .readFailure, field := .headerIo, frame := s.frames, ts := 0, data := [] }] }
      exec .asc s = .next t ∧ exec .next s = .next { t with inPos := s.src.bytes.length }) ∧
    (s.inPos < s.src.bytes.length → s.src.ending = .eos →
      let t := { s with
        status := (s.status &&& 0x0100) ||| 0x0242
        errFrame := s.frames
        resps := s.resps ++
          [{ code := .readFailure, field := .headerTruncated, frame := s.frames, ts := 0, data := [] }] }
      exec .asc s = .next t ∧ exec .next s = .next { t with inPos := s.src.bytes.length })

/-- NEXT returns the frame at the cursor: TS takes the frame's duration first and the answer carries the sum, the payload is the
prefix and the bytes after the header, FRAMES counts it, and the cursor is past it; nothing else changes (R130, R133 to
R136). -/
def Obligations.NextReturnsFrame : Prop :=
  ∀ (s : State) (f : InputFrame) (later : List Byte), s.isHalted = false → f.Ok →
    s.src.bytes.drop s.inPos = f.bytes ++ later →
    let ts := s.ts + BitVec.ofNat 32 (specDuration f.header)
    let payload := Config.soundFormatByte :: 0x01 :: f.raw
    ∃ h n, exec .next s = .next { s with
      ts := ts
      frames := s.frames + 1
      inPos := s.inPos + specFrameLength f.header
      frameBuf := payload
      status := s.status &&& 0x0300
      resps := s.resps ++ [{ code := .ok, field := .none, frame := s.frames, ts := ts, data := payload }]
      hdr := h, unspec := n }

/-- The header checks of NEXT: frameLength before the index; the 7 header bytes are consumed, and TS and FRAMES stay (R132). -/
def Obligations.NextRejectsMalformedHeader : Prop :=
  ∀ (s : State) (hd : AdtsHeader) (later : List Byte), s.isHalted = false →
    s.src.bytes.drop s.inPos = headerBytes hd ++ later → ¬ specHeaderOk hd →
    ∃ h n, exec .next s = .next { s with
      inPos := s.inPos + 7
      status := (s.status &&& 0x0100) ||| (if specFrameLength hd < 7 then 0x0213 else 0x0223)
      errFrame := s.frames
      resps := s.resps ++
        [{ code := .malformedFrame,
           field := if specFrameLength hd < 7 then .frameLength else .samplingFrequencyIndex,
           frame := s.frames, ts := 0, data := [] }]
      hdr := h, unspec := n }

/-- A payload read that comes back short: READ_FAILURE with the bytes already consumed, TS advanced, FRAMES unchanged, the cursor at the
source's end, and the block halted (R137, R134). That FRAME_BUF is unchanged is the model's reading of R130 and R35 (log 11). -/
def Obligations.NextPayloadShort : Prop :=
  ∀ (s : State) (hd : AdtsHeader) (out : List Byte), s.isHalted = false →
    s.src.bytes.drop s.inPos = headerBytes hd ++ out → specHeaderOk hd → 7 + out.length < specFrameLength hd →
    ∃ h n, exec .next s = .next { s with
      ts := s.ts + BitVec.ofNat 32 (specDuration hd)
      inPos := s.src.bytes.length
      status := (s.status &&& 0x0100) ||| (if s.src.ending = .ioerr then 0x0252 else 0x0262)
      errFrame := s.frames
      resps := s.resps ++
        [{ code := .readFailure, field := if s.src.ending = .ioerr then .payloadIo else .payloadTruncated,
           frame := s.frames, ts := 0, data := out }]
      hdr := h, unspec := n }

/-- END_OF_STREAM from NEXT is no error: only STATUS changes, and another NEXT answers END_OF_STREAM again (R131). -/
def Obligations.NextAtEndOfStreamRepeats : Prop :=
  ∀ s : State, s.isHalted = false → s.inPos = s.src.bytes.length → s.src.ending = .eos →
    let eos : Resp := { code := .endOfStream, field := .none, frame := s.frames, ts := 0, data := [] }
    let t := { s with status := (s.status &&& 0x0200) ||| 0x0101, resps := s.resps ++ [eos] }
    exec .next s = .next t ∧ t.isHalted = false ∧ exec .next t = .next { t with resps := s.resps ++ [eos, eos] }

/-- GETTS answers TS and writes STATUS.CODE and STATUS.FIELD only (R140). -/
def Obligations.GettsReturnsTimestamp : Prop :=
  ∀ s : State, s.isHalted = false →
    exec .getts s = .next { s with
      status := s.status &&& 0x0300
      resps := s.resps ++ [{ code := .ok, field := .none, frame := s.frames, ts := s.ts, data := [] }] }

/-- ASC is idempotent: issued twice with no NEXT between, it gives the same response, and the second changes no register the first
did not (R128). HDR and the model's counter are left out (R34). -/
def Obligations.AscIsIdempotent : Prop :=
  ∀ s t : State, s.isHalted = false → exec .asc s = .next t → t.isHalted = false →
    ∃ u r h n, exec .asc t = .next u ∧ t.resps = s.resps ++ [r] ∧
      u = { t with resps := t.resps ++ [r], hdr := h, unspec := n }

/-- The header bits outside the four fields have no effect on ASC and NEXT (R96): two inputs whose headers agree on the bits of R92
to R95 give the same answers and the same registers. -/
def Obligations.OnlyTheFourFieldsAreRead : Prop :=
  ∀ (i : Instr) (s t : State) (before later : List Byte) (h h' : AdtsHeader), i = .asc ∨ i = .next →
    s.src.bytes = before ++ headerBytes h ++ later → s.inPos = before.length →
    h.b2 &&& 0x3D = h'.b2 &&& 0x3D → h.b3 &&& 0xC3 = h'.b3 &&& 0xC3 → h.b4 = h'.b4 →
    h.b5 &&& 0xE0 = h'.b5 &&& 0xE0 → h.b6 &&& 0x03 = h'.b6 &&& 0x03 →
    exec i s = .next t →
    ∃ hd, exec i { s with src := { s.src with bytes := before ++ headerBytes h' ++ later } } =
      .next { t with src := { s.src with bytes := before ++ headerBytes h' ++ later }, hdr := hd }

/-- The duration of a frame is from 10 to 557 ms for every valid index and block count (R133). -/
def Obligations.DurationRange : Prop :=
  ∀ (nrdb : BitVec 2) (sfi : BitVec 4) (rate : Nat), sampleRate sfi = some rate →
    frameDuration nrdb rate = (nrdb.toNat + 1) * 1024 * 1000 / rate ∧
      10 ≤ frameDuration nrdb rate ∧ frameDuration nrdb rate ≤ 557

/-- Reading in chunks with retry gives what one exact read gives, whatever the chunk sizes (R52). -/
def Obligations.ChunkSizesHaveNoEffect : Prop :=
  ∀ (sizes : List Nat) (k : Nat) (s : State) (r : ReadResult × State), s.inPos ≤ s.src.bytes.length →
    readLoop sizes k s [] = some r → r = s.readExact k

/-- A source that delivers at least one byte at every attempt answers a read of k bytes in at most k attempts (R54). -/
def Obligations.RetryLoopEnds : Prop :=
  ∀ (sizes : List Nat) (k : Nat) (s : State), (∀ c ∈ sizes, 1 ≤ c) → k ≤ sizes.length →
    ∃ r, readLoop sizes k s [] = some r

/-! ### What a command leaves alone -/

/-- The framer's commands leave the parser's registers, the input, ERR_FRAME while no error is raised, and the port alone (R160, R18,
R40). -/
def Obligations.FramerLeavesParserAlone : Prop :=
  ∀ (i : Instr) (s t : State), isFramer i = true → exec i s = .next t →
    t.ts = s.ts ∧ t.frames = s.frames ∧ t.inPos = s.inPos ∧ t.src = s.src ∧ t.hdr = s.hdr ∧ t.frameBuf = s.frameBuf ∧
      t.cmds = s.cmds ∧ t.sink.failAt = s.sink.failAt ∧
      (t.isHalted = false → t.errFrame = s.errFrame) ∧
      t.status &&& 0x0100 = s.status &&& 0x0100

/-- The parser's commands leave OUT_POS and the sink alone, never change the input, and only NEXT writes TS, FRAMES, IN_POS and FRAME_BUF
(R24, R40, R58). -/
def Obligations.ParserWritesOnlyItsOwn : Prop :=
  ∀ (i : Instr) (s t : State), isFramer i = false → exec i s = .next t →
    t.outPos = s.outPos ∧ t.sink = s.sink ∧ t.src = s.src ∧ t.cmds = s.cmds ∧
      (t.isHalted = false → t.errFrame = s.errFrame) ∧
      (i ≠ .next → t.ts = s.ts ∧ t.frames = s.frames ∧ t.inPos = s.inPos ∧ t.frameBuf = s.frameBuf) ∧
      (i = .getts → t.hdr = s.hdr ∧ t.errFrame = s.errFrame ∧ t.status &&& 0x0300 = s.status &&& 0x0300)

/-- HDR and FRAME_BUF are read by no command before it writes them (R34, R38): their contents have no effect on an answer or on
another register. -/
def Obligations.HiddenBuffersAreNotRead : Prop :=
  ∀ (i : Instr) (s t : State) (h : AdtsHeader) (b : List Byte), exec i s = .next t →
    ∃ h' b', exec i { s with hdr := h, frameBuf := b } = .next { t with hdr := h', frameBuf := b' }

/-- The framer's commands do not depend on the parser's registers or on the input (R18, R160): FRAMES shows in the answer only. -/
def Obligations.FramerDoesNotReadParser : Prop :=
  ∀ (i : Instr) (s t : State) (ts : Word) (inPos : Nat) (src : Source), isFramer i = true → exec i s = .next t →
    exec i { s with ts := ts, inPos := inPos, src := src } = .next { t with ts := ts, inPos := inPos, src := src }

/-! ### The whole machine -/

/-- ERR_FRAME takes FRAMES when a command halts the block, is written at no other time, is carried by every error response, and is 0
after reset (R31). -/
def Obligations.ErrFrameRecordsTheFrame : Prop :=
  (∀ s t : State, step s = .next t →
    (s.isHalted = false ∧ t.isHalted = true → t.errFrame = s.frames) ∧
    (¬ (s.isHalted = false ∧ t.isHalted = true) → t.errFrame = s.errFrame) ∧
    ∀ r, t.resps = s.resps ++ [r] →
      r.code ∈ [RespCode.readFailure, .malformedFrame, .writeFailure, .illegalCommand] → r.frame = t.errFrame) ∧
  ∀ (src : Source) (failAt : Option Nat), (State.resetWith src failAt).errFrame = 0

/-- No command clears STATUS.HALT or STATUS.EOS (R27, R29, R198). -/
def Obligations.HaltAndEosAreSticky : Prop :=
  ∀ s t : State, step s = .next t →
    (s.isHalted = true → t.isHalted = true) ∧ (s.status.getLsbD 8 = true → t.status.getLsbD 8 = true)

/-- A running block is halted by a command exactly when its answer is one of the four fatal codes (R196, R30). -/
def Obligations.FatalCodesHalt : Prop :=
  ∀ (s t : State) (r : Resp), s.isHalted = false → step s = .next t → t.resps = s.resps ++ [r] →
    (t.isHalted = true ↔ r.code ∈ [RespCode.readFailure, .malformedFrame, .writeFailure, .illegalCommand])

/-- STATUS.CODE and STATUS.FIELD hold the last answer's code and field, and a HALTED answer leaves STATUS unchanged (R28). -/
def Obligations.StatusRecordsTheAnswer : Prop :=
  ∀ (s t : State) (r : Resp), step s = .next t → t.resps = s.resps ++ [r] →
    (r.code ≠ .halted →
      t.status.extractLsb' 0 4 = r.code.bits ∧ t.status.extractLsb' 4 4 = r.field.bits) ∧
    (r.code = .halted → t.status = s.status)

/-- STATUS.EOS is set by an END_OF_STREAM answer and by nothing else (R29). -/
def Obligations.EosIsSetByEndOfStream : Prop :=
  ∀ (s t : State) (r : Resp), step s = .next t → t.resps = s.resps ++ [r] →
    (t.status.getLsbD 8 = true ↔ s.status.getLsbD 8 = true ∨ r.code = .endOfStream)

/-- The sink never drops, reorders or duplicates an accepted byte (R60), delivered responses stay (R230), and the cursor never moves back
(R21). -/
def Obligations.StreamsOnlyGrow : Prop :=
  ∀ s t : State, s.inPos ≤ s.src.bytes.length → step s = .next t →
    s.sink.accepted <+: t.sink.accepted ∧ s.resps <+: t.resps ∧ s.inPos ≤ t.inPos ∧ s.outPos ≤ t.outPos ∧ t.src = s.src

/-- Every register has its reset value after reset, whatever source and sink are attached (R38, R220). -/
def Obligations.ResetValues : Prop :=
  ∀ (src : Source) (failAt : Option Nat),
    let s := State.resetWith src failAt
    s.ts = 0 ∧ s.frames = 0 ∧ s.inPos = 0 ∧ s.outPos = 0 ∧ s.status = 0x0000 ∧ s.errFrame = 0 ∧
      s.src = src ∧ s.sink = { accepted := [], failAt := failAt } ∧ s.isHalted = false

/-- Every step keeps the streams and the positions in agreement (R26, R32, R35, R59). -/
def Obligations.StepKeepsStreamsOk : Prop :=
  ∀ s t : State, s.StreamsOk → step s = .next t → t.StreamsOk

/-- Every step keeps the control registers legal (R27 to R31, R85, R86). -/
def Obligations.StepKeepsControlOk : Prop :=
  ∀ s t : State, s.ControlOk → step s = .next t → t.ControlOk

/-- Every step keeps FRAMES the count of the frames returned (R25). -/
def Obligations.StepKeepsFramesCounted : Prop :=
  ∀ s t : State, s.FramesCounted → step s = .next t → t.FramesCounted

/-- The invariants hold after reset, whatever source and sink are attached (R38). That FRAME_BUF is empty then is the model's choice
(log 2). -/
def Obligations.ResetMeetsInvariants : Prop :=
  ∀ (src : Source) (failAt : Option Nat),
    (State.resetWith src failAt).StreamsOk ∧ (State.resetWith src failAt).ControlOk ∧
      (State.resetWith src failAt).FramesCounted

/-! ### Sequences of commands -/

/-- N well-formed frames followed by end-of-stream: the first N NEXT commands answer OK with the frames' payloads, the next one answers
END_OF_STREAM, and FRAMES, IN_POS and TS count them (R139). -/
def Obligations.FramingOfWellFormedInput : Prop :=
  ∀ (s : State) (fs : List InputFrame), s.isHalted = false → (∀ f ∈ fs, f.Ok) →
    s.src.bytes.drop s.inPos = fs.flatMap InputFrame.bytes → s.inPos ≤ s.src.bytes.length → s.src.ending = .eos →
    s.cmds = List.replicate (fs.length + 1) { word := 0x03000000, ts := 0, data := [] } →
    ∃ t, Host.Core.run Sys2Proof.core (fs.length + 1) s = .next t ∧
      t.frames = s.frames + BitVec.ofNat 32 fs.length ∧ t.inPos = s.inPos + specLength fs ∧
      t.ts = s.ts + BitVec.ofNat 32 (specTotal fs) ∧ t.inPos = s.src.bytes.length ∧ t.isHalted = false ∧
      t.resps = s.resps ++ specAnswers s.ts s.frames fs ++
        [{ code := .endOfStream, field := .none, frame := s.frames + BitVec.ofNat 32 fs.length, ts := 0, data := [] }]

/-- With the same rate and block count in every frame and TS starting at 0, the 0-based frame k gets the timestamp (k + 1) times the
frame's duration, modulo 2^32 (R141). -/
def Obligations.ConstantStreamTimestamps : Prop :=
  ∀ (s : State) (fs : List InputFrame) (later : List Byte) (blocks rate : Nat), s.isHalted = false → s.ts = 0 →
    (∀ f ∈ fs, f.Ok ∧ specBlocks f.header = blocks ∧ specRate (specSfi f.header) = some rate) →
    s.src.bytes.drop s.inPos = fs.flatMap InputFrame.bytes ++ later →
    s.cmds = List.replicate fs.length { word := 0x03000000, ts := 0, data := [] } →
    ∃ t, Host.Core.run Sys2Proof.core fs.length s = .next t ∧
      ∀ k, k < fs.length → ∃ r, t.resps[s.resps.length + k]? = some r ∧ r.code = .ok ∧
        r.ts.toNat = (k + 1) * (blocks * 1024 * 1000 / rate) % 2 ^ 32

/-- After a WRHDR and tags, all successful, the output has grown by 13 bytes and 15 + L bytes for each tag (R171). -/
def Obligations.OutputSizeLaw : Prop :=
  ∀ (s t : State) (hasAudio hasVideo : Bool) (tags : List (TagType × Word × List Byte)),
    s.cmds = encode (.wrhdr hasAudio hasVideo) :: tags.map (fun x => encode (tagInstr x.1 x.2.1 x.2.2)) →
    (∀ x ∈ tags, x.2.2.length < 2 ^ 24) →
    Host.Core.run Sys2Proof.core (tags.length + 1) s = .next t → t.isHalted = false →
    t.outPos = s.outPos + 13 + (tags.map fun x => 15 + x.2.2.length).sum

/-- A CONVERT of a well-formed, non-empty stream into a sink that never fails ends in success and writes the file header, the
configuration tag of the first header and one audio tag for each frame (R225, R226). -/
def Obligations.ConvertWritesTheFile : Prop :=
  ∀ (s : State) (f : InputFrame) (fs : List InputFrame), s.isHalted = false → (∀ g ∈ f :: fs, g.Ok) →
    s.src.bytes.drop s.inPos = (f :: fs).flatMap InputFrame.bytes → s.src.ending = .eos → s.sink.failAt = none →
    ∃ t, convert s = .next t ∧ t.Succeeded ∧ t.status.getLsbD 8 = true ∧
      t.sink.accepted = s.sink.accepted ++ specFlvHeader true false ++ specTag 0x08 0 (specAscBlob f.header) ++
        specFrameTags s.ts (f :: fs) ∧
      t.outPos = s.outPos + (13 + 19 + ((f :: fs).map fun g => specFrameLength g.header + 10).sum)

/-- CONVERT with nothing left in the input: ASC answers END_OF_STREAM, the configuration tag with its empty data follows all the same
(R225, step 3; the reading of R90 is the model's, log 12), and the conversion ends in success. -/
def Obligations.ConvertOfEmptyInput : Prop :=
  ∀ s : State, s.isHalted = false → s.inPos = s.src.bytes.length → s.src.ending = .eos → s.sink.failAt = none →
    ∃ t, convert s = .next t ∧ t.Succeeded ∧ t.status.getLsbD 8 = true ∧ t.frames = s.frames ∧ t.ts = s.ts ∧
      t.sink.accepted = s.sink.accepted ++ specFlvHeader true false ++ specTag 0x08 0 [] ∧ t.outPos = s.outPos + (13 + 15)

/-- A conversion that a running block starts ends in success or in a halted block, and never in both. R226's third end, a hang, is shut
out by the fairness premise of R54: that CONVERT completes whatever the ports is the model's (log 13). So is the reading of R90 by
which an ASC answered END_OF_STREAM does not stop it (log 12). -/
def Obligations.ConversionEndsOneWay : Prop :=
  ∀ s : State, s.isHalted = false → s.inPos ≤ s.src.bytes.length →
    ∃ t, convert s = .next t ∧ (t.isHalted = true ↔ ¬ t.Succeeded) ∧ (t.Succeeded → t.status.getLsbD 8 = true)
end

