-- ==== Sys2Proof/Laws/Decode.lean ====
section
/-! SUPPORT. The command word and its two fields (30_encoding.md R81), and the cases of Decode (R87) said once. -/

namespace Sys2Proof

theorem wordOp_toNat (w : Word) : (wordOp w).toNat = w.toNat / 2 ^ 24 := by
  have := w.isLt
  simp [wordOp, Nat.shiftRight_eq_div_pow]
  omega

theorem wordArg_toNat (w : Word) : (wordArg w).toNat = w.toNat % 2 ^ 24 := by simp [wordArg]

@[simp] theorem wordOp_pack (op : BitVec 8) (arg : BitVec 24) : wordOp (packWord op arg) = op := by
  refine BitVec.eq_of_getLsbD_eq fun i hi => ?_
  interval_cases i <;> simp [wordOp, packWord]

@[simp] theorem wordArg_pack (op : BitVec 8) (arg : BitVec 24) : wordArg (packWord op arg) = arg := by
  refine BitVec.eq_of_getLsbD_eq fun i hi => ?_
  interval_cases i <;> simp [wordArg, packWord]

/-- A word is its opcode and its argument (R81). -/
theorem packWord_fields (w : Word) : packWord (wordOp w) (wordArg w) = w := by
  refine BitVec.eq_of_getLsbD_eq fun i hi => ?_
  interval_cases i <;> simp [wordOp, wordArg, packWord]

/-- The opcode is a given number exactly when bits 31:24 of the word are. -/
theorem wordOp_eq_iff (w : Word) {n : Nat} (hn : n < 256) : wordOp w = BitVec.ofNat 8 n ↔ w.toNat / 2 ^ 24 = n := by
  rw [← wordOp_toNat, ← BitVec.toNat_inj, BitVec.toNat_ofNat, Nat.mod_eq_of_lt (by omega)]

/-- The argument is 0 exactly when bits 23:0 of the word are. -/
theorem wordArg_eq_zero_iff (w : Word) : wordArg w = 0 ↔ w.toNat % 2 ^ 24 = 0 := by
  rw [← wordArg_toNat, ← BitVec.toNat_inj]
  rfl

/-- The WRHDR argument of two flags (R83), read back. -/
theorem wrhdrArg_flags (arg : BitVec 24) (h : arg &&& 0xFFFFFA = 0) :
    wrhdrArg (arg.getLsbD 2) (arg.getLsbD 0) = arg := by
  refine BitVec.eq_of_getLsbD_eq fun i hi => ?_
  have := congrArg (fun v : BitVec 24 => v.getLsbD i) h
  interval_cases i <;> simp [wrhdrArg] at this ⊢ <;> simp_all

theorem tagDataFits_iff (data : List Byte) : tagDataFits data = true ↔ data.length < 2 ^ 24 := by
  unfold tagDataFits
  rw [decide_eq_true_iff]

/-- The cases of Decode (R87). -/
theorem decodeWord_cases (w : Word) :
    (wordOp w = 0x01 ∧ wordArg w &&& 0xFFFFFA ≠ 0 ∧ decodeWord w = .illegal .reservedBits) ∨
    (wordOp w = 0x01 ∧ wordArg w &&& 0xFFFFFA = 0 ∧
      decodeWord w = .wrhdr ((wordArg w).getLsbD 2) ((wordArg w).getLsbD 0)) ∨
    ((wordOp w = 0x02 ∨ wordOp w = 0x03 ∨ wordOp w = 0x04) ∧ wordArg w ≠ 0 ∧ decodeWord w = .illegal .reservedBits) ∨
    (wordOp w = 0x02 ∧ wordArg w = 0 ∧ decodeWord w = .asc) ∨
    (wordOp w = 0x03 ∧ wordArg w = 0 ∧ decodeWord w = .next) ∨
    (wordOp w = 0x04 ∧ wordArg w = 0 ∧ decodeWord w = .getts) ∨
    (wordOp w = 0x08 ∧ decodeWord w = .tag .audio (wordArg w)) ∨
    (wordOp w = 0x09 ∧ decodeWord w = .tag .video (wordArg w)) ∨
    (wordOp w = 0x12 ∧ decodeWord w = .tag .script (wordArg w)) ∨
    (wordOp w ≠ 0x01 ∧ wordOp w ≠ 0x02 ∧ wordOp w ≠ 0x03 ∧ wordOp w ≠ 0x04 ∧ wordOp w ≠ 0x08 ∧ wordOp w ≠ 0x09 ∧
      wordOp w ≠ 0x12 ∧ decodeWord w = .illegal .opcode) := by
  generalize hd : decodeWord w = d
  unfold decodeWord bareWord at hd
  split_ifs at hd <;> simp_all

/-- The field of an illegal word is OPCODE or RESERVED_BITS. -/
theorem decode_illegal_field {c : Cmd} {f : FieldId} (h : decode c = .illegal f) : f = .opcode ∨ f = .reservedBits := by
  obtain ⟨-, -, h'⟩ | ⟨-, -, h'⟩ | ⟨-, -, h'⟩ | ⟨-, -, h'⟩ | ⟨-, -, h'⟩ | ⟨-, -, h'⟩ | ⟨-, h'⟩ | ⟨-, h'⟩ | ⟨-, h'⟩ |
    ⟨-, -, -, -, -, -, -, h'⟩ := decodeWord_cases c.word <;> simp [decode, h'] at h <;>
      first
      | subst h; simp
      | split at h <;> simp at h

end Sys2Proof
end

