-- ==== Sys2Proof/Laws/State.lean ====
section
/-! SUPPORT. What each named update of the state does to each field, one lemma per field, all true by `rfl` and tagged for `simp`, so
that no proof unfolds a record update. -/

namespace Sys2Proof.Machine

variable (s : State)

/-! `State.append` (R62) -/

@[simp] theorem State.append_ts (bs : List Byte) : (s.append bs).ts = s.ts := rfl
@[simp] theorem State.append_frames (bs : List Byte) : (s.append bs).frames = s.frames := rfl
@[simp] theorem State.append_inPos (bs : List Byte) : (s.append bs).inPos = s.inPos := rfl
@[simp] theorem State.append_outPos (bs : List Byte) : (s.append bs).outPos = s.outPos + bs.length := rfl
@[simp] theorem State.append_status (bs : List Byte) : (s.append bs).status = s.status := rfl
@[simp] theorem State.append_errFrame (bs : List Byte) : (s.append bs).errFrame = s.errFrame := rfl
@[simp] theorem State.append_hdr (bs : List Byte) : (s.append bs).hdr = s.hdr := rfl
@[simp] theorem State.append_frameBuf (bs : List Byte) : (s.append bs).frameBuf = s.frameBuf := rfl
@[simp] theorem State.append_src (bs : List Byte) : (s.append bs).src = s.src := rfl
@[simp] theorem State.append_sink (bs : List Byte) :
    (s.append bs).sink =
      { s.sink with accepted := s.sink.accepted ++ bs } := rfl
@[simp] theorem State.append_cmds (bs : List Byte) : (s.append bs).cmds = s.cmds := rfl
@[simp] theorem State.append_resps (bs : List Byte) : (s.append bs).resps = s.resps := rfl
@[simp] theorem State.append_unspec (bs : List Byte) : (s.append bs).unspec = s.unspec := rfl

/-! `State.deliver` (R84) -/

@[simp] theorem State.deliver_ts (r : Resp) : (s.deliver r).ts = s.ts := rfl
@[simp] theorem State.deliver_frames (r : Resp) : (s.deliver r).frames = s.frames := rfl
@[simp] theorem State.deliver_inPos (r : Resp) : (s.deliver r).inPos = s.inPos := rfl
@[simp] theorem State.deliver_outPos (r : Resp) : (s.deliver r).outPos = s.outPos := rfl
@[simp] theorem State.deliver_status (r : Resp) : (s.deliver r).status = s.status := rfl
@[simp] theorem State.deliver_errFrame (r : Resp) : (s.deliver r).errFrame = s.errFrame := rfl
@[simp] theorem State.deliver_hdr (r : Resp) : (s.deliver r).hdr = s.hdr := rfl
@[simp] theorem State.deliver_frameBuf (r : Resp) : (s.deliver r).frameBuf = s.frameBuf := rfl
@[simp] theorem State.deliver_src (r : Resp) : (s.deliver r).src = s.src := rfl
@[simp] theorem State.deliver_sink (r : Resp) : (s.deliver r).sink = s.sink := rfl
@[simp] theorem State.deliver_cmds (r : Resp) : (s.deliver r).cmds = s.cmds := rfl
@[simp] theorem State.deliver_resps (r : Resp) : (s.deliver r).resps = s.resps ++ [r] := rfl
@[simp] theorem State.deliver_unspec (r : Resp) : (s.deliver r).unspec = s.unspec := rfl

/-! `State.respond` (R14, R28) -/

@[simp] theorem State.respond_ts (r : Resp) : (s.respond r).ts = s.ts := rfl
@[simp] theorem State.respond_frames (r : Resp) : (s.respond r).frames = s.frames := rfl
@[simp] theorem State.respond_inPos (r : Resp) : (s.respond r).inPos = s.inPos := rfl
@[simp] theorem State.respond_outPos (r : Resp) : (s.respond r).outPos = s.outPos := rfl
@[simp] theorem State.respond_status (r : Resp) : (s.respond r).status = statusAnswered s.status r.code r.field := rfl
@[simp] theorem State.respond_errFrame (r : Resp) : (s.respond r).errFrame = s.errFrame := rfl
@[simp] theorem State.respond_hdr (r : Resp) : (s.respond r).hdr = s.hdr := rfl
@[simp] theorem State.respond_frameBuf (r : Resp) : (s.respond r).frameBuf = s.frameBuf := rfl
@[simp] theorem State.respond_src (r : Resp) : (s.respond r).src = s.src := rfl
@[simp] theorem State.respond_sink (r : Resp) : (s.respond r).sink = s.sink := rfl
@[simp] theorem State.respond_cmds (r : Resp) : (s.respond r).cmds = s.cmds := rfl
@[simp] theorem State.respond_resps (r : Resp) : (s.respond r).resps = s.resps ++ [r] := rfl
@[simp] theorem State.respond_unspec (r : Resp) : (s.respond r).unspec = s.unspec := rfl

/-! `State.respondEos` (R29) -/

@[simp] theorem State.respondEos_ts : s.respondEos.ts = s.ts := rfl
@[simp] theorem State.respondEos_frames : s.respondEos.frames = s.frames := rfl
@[simp] theorem State.respondEos_inPos : s.respondEos.inPos = s.inPos := rfl
@[simp] theorem State.respondEos_outPos : s.respondEos.outPos = s.outPos := rfl
@[simp] theorem State.respondEos_status :
    s.respondEos.status =
      statusAnswered (statusWithEos s.status) .endOfStream .none := rfl
@[simp] theorem State.respondEos_errFrame : s.respondEos.errFrame = s.errFrame := rfl
@[simp] theorem State.respondEos_hdr : s.respondEos.hdr = s.hdr := rfl
@[simp] theorem State.respondEos_frameBuf : s.respondEos.frameBuf = s.frameBuf := rfl
@[simp] theorem State.respondEos_src : s.respondEos.src = s.src := rfl
@[simp] theorem State.respondEos_sink : s.respondEos.sink = s.sink := rfl
@[simp] theorem State.respondEos_cmds : s.respondEos.cmds = s.cmds := rfl
@[simp] theorem State.respondEos_resps :
    s.respondEos.resps =
      s.resps ++ [{ code := .endOfStream, field := .none, frame := s.frames, ts := 0, data := [] }] := rfl
@[simp] theorem State.respondEos_unspec : s.respondEos.unspec = s.unspec := rfl

/-! `State.raise` (R195) -/

@[simp] theorem State.raise_ts (e : ErrorName) (f : FieldId) (out : List Byte) : (s.raise e f out).ts = s.ts := rfl
@[simp] theorem State.raise_frames (e : ErrorName) (f : FieldId) (out : List Byte) : (s.raise e f out).frames = s.frames := rfl
@[simp] theorem State.raise_inPos (e : ErrorName) (f : FieldId) (out : List Byte) : (s.raise e f out).inPos = s.inPos := rfl
@[simp] theorem State.raise_outPos (e : ErrorName) (f : FieldId) (out : List Byte) : (s.raise e f out).outPos = s.outPos := rfl
@[simp] theorem State.raise_status (e : ErrorName) (f : FieldId) (out : List Byte) :
    (s.raise e f out).status =
      statusWithHalt (statusAnswered s.status e.code f) := rfl
@[simp] theorem State.raise_errFrame (e : ErrorName) (f : FieldId) (out : List Byte) :
    (s.raise e f out).errFrame =
      s.frames := rfl
@[simp] theorem State.raise_hdr (e : ErrorName) (f : FieldId) (out : List Byte) : (s.raise e f out).hdr = s.hdr := rfl
@[simp] theorem State.raise_frameBuf (e : ErrorName) (f : FieldId) (out : List Byte) :
    (s.raise e f out).frameBuf =
      s.frameBuf := rfl
@[simp] theorem State.raise_src (e : ErrorName) (f : FieldId) (out : List Byte) : (s.raise e f out).src = s.src := rfl
@[simp] theorem State.raise_sink (e : ErrorName) (f : FieldId) (out : List Byte) : (s.raise e f out).sink = s.sink := rfl
@[simp] theorem State.raise_cmds (e : ErrorName) (f : FieldId) (out : List Byte) : (s.raise e f out).cmds = s.cmds := rfl
@[simp] theorem State.raise_resps (e : ErrorName) (f : FieldId) (out : List Byte) :
    (s.raise e f out).resps =
      s.resps ++ [{ code := e.code, field := f, frame := s.frames, ts := 0, data := out }] := rfl
@[simp] theorem State.raise_unspec (e : ErrorName) (f : FieldId) (out : List Byte) : (s.raise e f out).unspec = s.unspec := rfl

/-! `State.answerHalted` (R197) -/

@[simp] theorem State.answerHalted_ts : s.answerHalted.ts = s.ts := rfl
@[simp] theorem State.answerHalted_frames : s.answerHalted.frames = s.frames := rfl
@[simp] theorem State.answerHalted_inPos : s.answerHalted.inPos = s.inPos := rfl
@[simp] theorem State.answerHalted_outPos : s.answerHalted.outPos = s.outPos := rfl
@[simp] theorem State.answerHalted_status : s.answerHalted.status = s.status := rfl
@[simp] theorem State.answerHalted_errFrame : s.answerHalted.errFrame = s.errFrame := rfl
@[simp] theorem State.answerHalted_hdr : s.answerHalted.hdr = s.hdr := rfl
@[simp] theorem State.answerHalted_frameBuf : s.answerHalted.frameBuf = s.frameBuf := rfl
@[simp] theorem State.answerHalted_src : s.answerHalted.src = s.src := rfl
@[simp] theorem State.answerHalted_sink : s.answerHalted.sink = s.sink := rfl
@[simp] theorem State.answerHalted_cmds : s.answerHalted.cmds = s.cmds := rfl
@[simp] theorem State.answerHalted_resps :
    s.answerHalted.resps =
      s.resps ++ [{ code := .halted, field := .none, frame := s.errFrame, ts := 0, data := [] }] := rfl
@[simp] theorem State.answerHalted_unspec : s.answerHalted.unspec = s.unspec := rfl

/-! `State.writeHdr` (R34) -/

@[simp] theorem State.writeHdr_ts (bs : List Byte) : (s.writeHdr bs).ts = s.ts := rfl
@[simp] theorem State.writeHdr_frames (bs : List Byte) : (s.writeHdr bs).frames = s.frames := rfl
@[simp] theorem State.writeHdr_inPos (bs : List Byte) : (s.writeHdr bs).inPos = s.inPos := rfl
@[simp] theorem State.writeHdr_outPos (bs : List Byte) : (s.writeHdr bs).outPos = s.outPos := rfl
@[simp] theorem State.writeHdr_status (bs : List Byte) : (s.writeHdr bs).status = s.status := rfl
@[simp] theorem State.writeHdr_errFrame (bs : List Byte) : (s.writeHdr bs).errFrame = s.errFrame := rfl
/-- Not tagged: the bytes are seldom known one by one; for a header's own bytes see `writeHdr_headerBytes`. -/
theorem State.writeHdr_hdr (bs : List Byte) :
    (s.writeHdr bs).hdr =
      { b0 := bs.getD 0 0, b1 := bs.getD 1 0, b2 := bs.getD 2 0, b3 := bs.getD 3 0,
        b4 := bs.getD 4 0, b5 := bs.getD 5 0, b6 := bs.getD 6 0 } := rfl
@[simp] theorem State.writeHdr_frameBuf (bs : List Byte) : (s.writeHdr bs).frameBuf = s.frameBuf := rfl
@[simp] theorem State.writeHdr_src (bs : List Byte) : (s.writeHdr bs).src = s.src := rfl
@[simp] theorem State.writeHdr_sink (bs : List Byte) : (s.writeHdr bs).sink = s.sink := rfl
@[simp] theorem State.writeHdr_cmds (bs : List Byte) : (s.writeHdr bs).cmds = s.cmds := rfl
@[simp] theorem State.writeHdr_resps (bs : List Byte) : (s.writeHdr bs).resps = s.resps := rfl
@[simp] theorem State.writeHdr_unspec (bs : List Byte) : (s.writeHdr bs).unspec = s.unspec := rfl

/-! `State.releaseHdr` (R34) -/

@[simp] theorem State.releaseHdr_ts : s.releaseHdr.ts = s.ts := rfl
@[simp] theorem State.releaseHdr_frames : s.releaseHdr.frames = s.frames := rfl
@[simp] theorem State.releaseHdr_inPos : s.releaseHdr.inPos = s.inPos := rfl
@[simp] theorem State.releaseHdr_outPos : s.releaseHdr.outPos = s.outPos := rfl
@[simp] theorem State.releaseHdr_status : s.releaseHdr.status = s.status := rfl
@[simp] theorem State.releaseHdr_errFrame : s.releaseHdr.errFrame = s.errFrame := rfl
@[simp] theorem State.releaseHdr_hdr : s.releaseHdr.hdr = Config.hdrBetween s.unspec := rfl
@[simp] theorem State.releaseHdr_frameBuf : s.releaseHdr.frameBuf = s.frameBuf := rfl
@[simp] theorem State.releaseHdr_src : s.releaseHdr.src = s.src := rfl
@[simp] theorem State.releaseHdr_sink : s.releaseHdr.sink = s.sink := rfl
@[simp] theorem State.releaseHdr_cmds : s.releaseHdr.cmds = s.cmds := rfl
@[simp] theorem State.releaseHdr_resps : s.releaseHdr.resps = s.resps := rfl
@[simp] theorem State.releaseHdr_unspec : s.releaseHdr.unspec = s.unspec + 1 := rfl

/-! `State.advanceTs` (R134) -/

@[simp] theorem State.advanceTs_ts (d : Nat) : (s.advanceTs d).ts = s.ts + BitVec.ofNat 32 d := rfl
@[simp] theorem State.advanceTs_frames (d : Nat) : (s.advanceTs d).frames = s.frames := rfl
@[simp] theorem State.advanceTs_inPos (d : Nat) : (s.advanceTs d).inPos = s.inPos := rfl
@[simp] theorem State.advanceTs_outPos (d : Nat) : (s.advanceTs d).outPos = s.outPos := rfl
@[simp] theorem State.advanceTs_status (d : Nat) : (s.advanceTs d).status = s.status := rfl
@[simp] theorem State.advanceTs_errFrame (d : Nat) : (s.advanceTs d).errFrame = s.errFrame := rfl
@[simp] theorem State.advanceTs_hdr (d : Nat) : (s.advanceTs d).hdr = s.hdr := rfl
@[simp] theorem State.advanceTs_frameBuf (d : Nat) : (s.advanceTs d).frameBuf = s.frameBuf := rfl
@[simp] theorem State.advanceTs_src (d : Nat) : (s.advanceTs d).src = s.src := rfl
@[simp] theorem State.advanceTs_sink (d : Nat) : (s.advanceTs d).sink = s.sink := rfl
@[simp] theorem State.advanceTs_cmds (d : Nat) : (s.advanceTs d).cmds = s.cmds := rfl
@[simp] theorem State.advanceTs_resps (d : Nat) : (s.advanceTs d).resps = s.resps := rfl
@[simp] theorem State.advanceTs_unspec (d : Nat) : (s.advanceTs d).unspec = s.unspec := rfl

/-! `State.returnFrame` (R135, R136) -/

@[simp] theorem State.returnFrame_ts (raw : List Byte) : (s.returnFrame raw).ts = s.ts := rfl
@[simp] theorem State.returnFrame_frames (raw : List Byte) : (s.returnFrame raw).frames = s.frames + 1 := rfl
@[simp] theorem State.returnFrame_inPos (raw : List Byte) : (s.returnFrame raw).inPos = s.inPos := rfl
@[simp] theorem State.returnFrame_outPos (raw : List Byte) : (s.returnFrame raw).outPos = s.outPos := rfl
@[simp] theorem State.returnFrame_status (raw : List Byte) :
    (s.returnFrame raw).status =
      statusAnswered s.status .ok .none := rfl
@[simp] theorem State.returnFrame_errFrame (raw : List Byte) : (s.returnFrame raw).errFrame = s.errFrame := rfl
@[simp] theorem State.returnFrame_hdr (raw : List Byte) : (s.returnFrame raw).hdr = s.hdr := rfl
@[simp] theorem State.returnFrame_frameBuf (raw : List Byte) : (s.returnFrame raw).frameBuf = framePayload raw := rfl
@[simp] theorem State.returnFrame_src (raw : List Byte) : (s.returnFrame raw).src = s.src := rfl
@[simp] theorem State.returnFrame_sink (raw : List Byte) : (s.returnFrame raw).sink = s.sink := rfl
@[simp] theorem State.returnFrame_cmds (raw : List Byte) : (s.returnFrame raw).cmds = s.cmds := rfl
@[simp] theorem State.returnFrame_resps (raw : List Byte) :
    (s.returnFrame raw).resps =
      s.resps ++
        [{ code := .ok, field := .none, frame := s.frames, ts := s.ts, data := framePayload raw }] := rfl
@[simp] theorem State.returnFrame_unspec (raw : List Byte) : (s.returnFrame raw).unspec = s.unspec := rfl

/-! `State.present` (R8) -/

@[simp] theorem State.present_ts (c : Cmd) : (s.present c).ts = s.ts := rfl
@[simp] theorem State.present_frames (c : Cmd) : (s.present c).frames = s.frames := rfl
@[simp] theorem State.present_inPos (c : Cmd) : (s.present c).inPos = s.inPos := rfl
@[simp] theorem State.present_outPos (c : Cmd) : (s.present c).outPos = s.outPos := rfl
@[simp] theorem State.present_status (c : Cmd) : (s.present c).status = s.status := rfl
@[simp] theorem State.present_errFrame (c : Cmd) : (s.present c).errFrame = s.errFrame := rfl
@[simp] theorem State.present_hdr (c : Cmd) : (s.present c).hdr = s.hdr := rfl
@[simp] theorem State.present_frameBuf (c : Cmd) : (s.present c).frameBuf = s.frameBuf := rfl
@[simp] theorem State.present_src (c : Cmd) : (s.present c).src = s.src := rfl
@[simp] theorem State.present_sink (c : Cmd) : (s.present c).sink = s.sink := rfl
@[simp] theorem State.present_cmds (c : Cmd) : (s.present c).cmds = c :: s.cmds := rfl
@[simp] theorem State.present_resps (c : Cmd) : (s.present c).resps = s.resps := rfl
@[simp] theorem State.present_unspec (c : Cmd) : (s.present c).unspec = s.unspec := rfl

end Sys2Proof.Machine
end

