-- ==== Sys2Proof/Laws/Flags.lean ====
section
/-! SUPPORT. The fields of a STATUS value that the model wrote, and the values that answers and errors leave in it. -/

namespace Sys2Proof.Machine

@[simp] theorem statusHalt_pack (h e : Bool) (f c : BitVec 4) : statusHalt (packStatus h e f c) = h := by
  simp [statusHalt, packStatus]

@[simp] theorem statusEos_pack (h e : Bool) (f c : BitVec 4) : statusEos (packStatus h e f c) = e := by
  simp [statusEos, packStatus]

@[simp] theorem statusField_pack (h e : Bool) (f c : BitVec 4) : statusField (packStatus h e f c) = f := by
  refine BitVec.eq_of_getLsbD_eq fun i hi => ?_
  interval_cases i <;> simp [statusField, packStatus]

@[simp] theorem statusCode_pack (h e : Bool) (f c : BitVec 4) : statusCode (packStatus h e f c) = c := by
  refine BitVec.eq_of_getLsbD_eq fun i hi => ?_
  interval_cases i <;> simp [statusCode, packStatus]

@[simp] theorem statusReserved_pack (h e : Bool) (f c : BitVec 4) : statusReserved (packStatus h e f c) = 0 := by
  refine BitVec.eq_of_getLsbD_eq fun i hi => ?_
  interval_cases i <;> simp [statusReserved, packStatus]

/-- A packed STATUS as the masks of R27: the flags of `st` kept, and the numbers of field and code put in. -/
theorem packStatus_eq_or (st : BitVec 16) (f c : BitVec 4) :
    packStatus (statusHalt st) (statusEos st) f c =
      (st &&& 0x0300) ||| (f.setWidth 16 <<< 4) ||| c.setWidth 16 := by
  refine BitVec.eq_of_getLsbD_eq fun i hi => ?_
  interval_cases i <;> simp [packStatus, statusHalt, statusEos]

/-- STATUS.CODE as a number (R27). -/
theorem statusCode_toNat (st : BitVec 16) : (statusCode st).toNat = st.toNat % 16 := by
  simp [statusCode]

/-- STATUS.FIELD as a number (R27). -/
theorem statusField_toNat (st : BitVec 16) : (statusField st).toNat = st.toNat / 16 % 16 := by
  simp [statusField, Nat.shiftRight_eq_div_pow]

/-- The reserved bits of STATUS as a number (R27). -/
theorem statusReserved_toNat (st : BitVec 16) : (statusReserved st).toNat = st.toNat / 2 ^ 10 := by
  have := st.isLt
  simp [statusReserved, Nat.shiftRight_eq_div_pow]
  omega

/-- STATUS.EOS as a number (R27). -/
theorem statusEos_iff (st : BitVec 16) : statusEos st = true ↔ st.toNat / 2 ^ 8 % 2 = 1 := by
  simp [statusEos, BitVec.getLsbD, Nat.testBit_eq_decide_div_mod_eq]

section Answers

variable (st : BitVec 16) (c : RespCode) (f : FieldId)

@[simp] theorem statusHalt_answered : statusHalt (statusAnswered st c f) = statusHalt st := by simp [statusAnswered]
@[simp] theorem statusEos_answered : statusEos (statusAnswered st c f) = statusEos st := by simp [statusAnswered]
@[simp] theorem statusCode_answered : statusCode (statusAnswered st c f) = c.bits := by simp [statusAnswered]
@[simp] theorem statusField_answered : statusField (statusAnswered st c f) = f.bits := by simp [statusAnswered]
@[simp] theorem statusReserved_answered : statusReserved (statusAnswered st c f) = 0 := by simp [statusAnswered]

@[simp] theorem statusHalt_withEos : statusHalt (statusWithEos st) = statusHalt st := by simp [statusWithEos]
@[simp] theorem statusEos_withEos : statusEos (statusWithEos st) = true := by simp [statusWithEos]

@[simp] theorem statusHalt_withHalt : statusHalt (statusWithHalt st) = true := by simp [statusWithHalt]
@[simp] theorem statusEos_withHalt : statusEos (statusWithHalt st) = statusEos st := by simp [statusWithHalt]
@[simp] theorem statusCode_withHalt : statusCode (statusWithHalt st) = statusCode st := by simp [statusWithHalt]
@[simp] theorem statusField_withHalt : statusField (statusWithHalt st) = statusField st := by simp [statusWithHalt]
@[simp] theorem statusReserved_withHalt : statusReserved (statusWithHalt st) = 0 := by simp [statusWithHalt]

/-- What an answer leaves in STATUS, as masks (R28). -/
theorem statusAnswered_eq_or :
    statusAnswered st c f = (st &&& 0x0300) ||| (f.bits.setWidth 16 <<< 4) ||| c.bits.setWidth 16 :=
  packStatus_eq_or st f.bits c.bits

/-- What the answer OK leaves in STATUS (R28). -/
theorem statusAnswered_ok : statusAnswered st .ok .none = st &&& 0x0300 := by
  simp [statusAnswered_eq_or, RespCode.bits, FieldId.bits]

/-- What END_OF_STREAM leaves in STATUS (R29). -/
theorem statusAnswered_eos : statusAnswered (statusWithEos st) .endOfStream .none = (st &&& 0x0200) ||| 0x0101 := by
  refine BitVec.eq_of_getLsbD_eq fun i hi => ?_
  simp only [statusAnswered, statusHalt_withEos, statusEos_withEos]
  interval_cases i <;> simp [packStatus, statusHalt, RespCode.bits, FieldId.bits]

/-- What a fatal error leaves in STATUS (R195): EOS kept, HALT set. -/
theorem statusRaised_eq_or : statusWithHalt (statusAnswered st c f) =
    (st &&& 0x0100) ||| (0x0200 ||| (f.bits.setWidth 16 <<< 4) ||| c.bits.setWidth 16) := by
  refine BitVec.eq_of_getLsbD_eq fun i hi => ?_
  simp only [statusWithHalt, statusEos_answered, statusField_answered, statusCode_answered]
  interval_cases i <;> simp [packStatus, statusEos]

end Answers

end Sys2Proof.Machine
end

