-- ==== Sys2Proof/Laws/Ops.lean ====
section
/-! SUPPORT. One lemma for each shared operation that says once what it can do; proofs cite these instead of unfolding the
operation. -/

namespace Sys2Proof.Machine

open Host (Outcome)

variable (s : State)

/-! ### Ending a command -/

@[simp] theorem isHalted_respond (r : Resp) : (s.respond r).isHalted = s.isHalted := by simp [State.isHalted]
@[simp] theorem isHalted_respondEos : s.respondEos.isHalted = s.isHalted := by simp [State.isHalted]
@[simp] theorem isHalted_raise (e : ErrorName) (f : FieldId) (out : List Byte) : (s.raise e f out).isHalted = true := by
  simp [State.isHalted]
@[simp] theorem isHalted_answerHalted : s.answerHalted.isHalted = s.isHalted := rfl
@[simp] theorem isHalted_append (bs : List Byte) : (s.append bs).isHalted = s.isHalted := rfl
@[simp] theorem isHalted_writeHdr (bs : List Byte) : (s.writeHdr bs).isHalted = s.isHalted := rfl
@[simp] theorem isHalted_releaseHdr : s.releaseHdr.isHalted = s.isHalted := rfl
@[simp] theorem isHalted_advanceTs (d : Nat) : (s.advanceTs d).isHalted = s.isHalted := rfl

/-- The codes of errors are the fatal ones (R196). -/
theorem errorName_code_fatal (e : ErrorName) : e.code.fatal = true := by cases e <;> rfl

/-- The HALT check (R194): a halted block answers HALTED, a running one goes on. -/
theorem unlessHalted_next {run : State → Outcome State Fault Refusal} {t : State} :
    s.unlessHalted run = .next t ↔
      s.isHalted = true ∧ t = s.answerHalted ∨ s.isHalted = false ∧ run s = .next t := by
  cases h : s.isHalted <;> simp [State.unlessHalted, h, eq_comm]

@[simp] theorem unlessHalted_running {run : State → Outcome State Fault Refusal} (h : s.isHalted = false) :
    s.unlessHalted run = run s := by simp [State.unlessHalted, h]

@[simp] theorem unlessHalted_halted {run : State → Outcome State Fault Refusal} (h : s.isHalted = true) :
    s.unlessHalted run = .next s.answerHalted := by simp [State.unlessHalted, h]

/-! ### The ports -/

/-- InReadExact(k) with enough bytes (R55). -/
theorem readExact_enough {k : Nat} {bs later : List Byte} (h : s.src.bytes.drop s.inPos = bs ++ later) (hk : bs.length = k) :
    s.readExact k = (.ok bs, { s with inPos := s.inPos + k }) := by
  subst hk
  simp [State.readExact, State.remaining, h]

/-- InReadExact(k) with too few bytes (R55). -/
theorem readExact_short {k : Nat} {out : List Byte} (h : s.src.bytes.drop s.inPos = out) (hk : out.length < k) :
    s.readExact k = (.short out s.src.ending, { s with inPos := s.src.bytes.length }) := by
  subst h
  unfold State.readExact State.remaining
  rw [if_neg (Nat.not_le.mpr hk)]

/-- InReadExact(k) changes the cursor alone (R55). -/
theorem readExact_state (k : Nat) :
    ∃ n, (s.readExact k).2 = { s with inPos := n } ∧ (s.inPos ≤ s.src.bytes.length → s.inPos ≤ n ∧ n ≤ s.src.bytes.length) := by
  unfold State.readExact
  split
  · rename_i h
    refine ⟨s.inPos + k, rfl, fun hp => ?_⟩
    simp only [State.remaining, List.length_drop] at h
    omega
  · exact ⟨s.src.bytes.length, rfl, fun hp => ⟨hp, Nat.le_refl _⟩⟩

/-- InReadExact(k) that answers Ok delivers k bytes (R55). -/
theorem readExact_ok_length {k : Nat} {bs : List Byte} {t : State} (h : s.readExact k = (.ok bs, t)) : bs.length = k := by
  unfold State.readExact at h
  split at h
  · simp only [Prod.mk.injEq, ReadResult.ok.injEq] at h
    rw [← h.1, List.length_take]
    omega
  · simp at h

/-- InPeek(k) delivers what InReadExact(k) delivers (R57). -/
theorem peek_eq_readExact (k : Nat) : s.peek k = (s.readExact k).1 := by
  unfold State.peek State.readExact
  split <;> rfl

/-- OutWrite of bytes the sink has room for (R62). -/
theorem outWrite_room {bs : List Byte} (h : ∀ n, s.sink.failAt = some n → s.outPos + bs.length ≤ n) :
    s.outWrite bs = (true, s.append bs) := by
  unfold State.outWrite State.hasRoom
  cases hf : s.sink.failAt with
  | none => simp
  | some n => simp [show bs.length ≤ n - s.outPos by have := h n hf; omega]

/-- OutWrite of bytes among which the sink fails (R62): it keeps those before its fail point. -/
theorem outWrite_fail {bs : List Byte} {n : Nat} (hf : s.sink.failAt = some n) (hp : s.outPos ≤ n)
    (h : n < s.outPos + bs.length) : s.outWrite bs = (false, s.append (bs.take (n - s.outPos))) := by
  have h1 : ¬ bs.length ≤ n - s.outPos := by omega
  have h2 : min bs.length (n - s.outPos) = n - s.outPos := by omega
  simp [State.outWrite, State.hasRoom, State.acceptedOf, hf, h1, h2]

/-- OutWrite appends some first part of the bytes, within the sink's limit (R60, R62). -/
theorem outWrite_state (bs : List Byte) :
    ∃ n, (s.outWrite bs).2 = s.append (bs.take n) ∧
      ∀ limit, s.sink.failAt = some limit → s.outPos ≤ limit → s.outPos + (bs.take n).length ≤ limit := by
  unfold State.outWrite State.hasRoom State.acceptedOf
  cases hf : s.sink.failAt with
  | none => exact ⟨bs.length, by simp, by simp⟩
  | some lim =>
    by_cases h : bs.length ≤ lim - s.outPos
    · refine ⟨bs.length, by simp [h], ?_⟩
      rintro _ ⟨⟩ hp
      simp only [List.take_length]
      omega
    · refine ⟨min bs.length (lim - s.outPos), by simp [h], ?_⟩
      rintro _ ⟨⟩ hp
      simp only [List.length_take]
      omega

/-- The end of a framer command (R161, R165): OK after a whole write, WRITE_FAILURE(SINK) otherwise. -/
theorem emit_cases (bs : List Byte) :
    (s.outWrite bs = (true, s.append bs) ∧
      s.emit bs = (s.append bs).respond { code := .ok, field := .none, frame := s.frames, ts := 0, data := [] }) ∨
    ∃ n, (s.outWrite bs).2 = s.append (bs.take n) ∧
      (∀ limit, s.sink.failAt = some limit → s.outPos ≤ limit → s.outPos + (bs.take n).length ≤ limit) ∧
      s.emit bs = (s.append (bs.take n)).raise .writeFailure .sink [] := by
  obtain ⟨n, h1, h2⟩ := outWrite_state s bs
  by_cases h : s.hasRoom bs.length = true
  · exact .inl ⟨by simp [State.outWrite, h], by simp [State.emit, State.outWrite, h]⟩
  · refine .inr ⟨n, h1, h2, ?_⟩
    have h3 : s.outWrite bs = (false, s.append (bs.take n)) := by
      rw [← h1]
      simp [State.outWrite, h]
    simp [State.emit, h3]

/-! ### The ends of ASC and NEXT -/

/-- A short header read ends the command in one of three ways (R121). -/
theorem endShortHeader_cases (out : List Byte) (e : Ending) :
    s.endShortHeader out e = s.respondEos ∨ s.endShortHeader out e = s.raise .readFailure .headerIo [] ∨
      s.endShortHeader out e = s.raise .readFailure .headerTruncated [] := by
  cases e <;> cases out <;> simp [State.endShortHeader]

/-- ASC on a header ends in MALFORMED_FRAME or in the blob (R123). -/
theorem answerAsc_cases (f : HeaderFields) :
    s.answerAsc f = s.raise .malformedFrame .samplingFrequencyIndex [] ∨
      s.answerAsc f =
        s.respond { code := .ok, field := .none, frame := s.frames, ts := 0, data := ascBlob f.sfi f.ch } := by
  unfold State.answerAsc
  split <;> simp

/-- The payload read of NEXT ends in READ_FAILURE or in the frame (R137, R135). -/
theorem readPayload_cases (len : Nat) :
    ∃ n, (s.inPos ≤ s.src.bytes.length → s.inPos ≤ n ∧ n ≤ s.src.bytes.length) ∧
      ((∃ field out, (field = .payloadIo ∨ field = .payloadTruncated) ∧
          s.readPayload len = { s with inPos := n }.raise .readFailure field out) ∨
        ∃ raw, raw.length = len ∧ s.readPayload len = { s with inPos := n }.returnFrame raw) := by
  obtain ⟨n, h1, h2⟩ := readExact_state s len
  refine ⟨n, h2, ?_⟩
  unfold State.readPayload
  cases hr : s.readExact len with
  | mk r t =>
    rw [hr] at h1
    cases r with
    | ok raw => exact .inr ⟨raw, readExact_ok_length s hr, by simp_all⟩
    | short out e => exact .inl ⟨payloadField e, out, by cases e <;> simp [payloadField], by simp_all⟩

/-- NEXT on a header ends in MALFORMED_FRAME, or TS advances and the payload is read (R130, R132). -/
theorem answerNext_cases (f : HeaderFields) :
    (∃ field, (field = .frameLength ∨ field = .samplingFrequencyIndex) ∧
      s.answerNext f = s.raise .malformedFrame field []) ∨
    ∃ d, 7 ≤ f.fl.toNat ∧ s.answerNext f = (s.advanceTs d).readPayload (f.fl.toNat - 7) := by
  unfold State.answerNext Config.adtsHeaderLen
  split
  · exact .inl ⟨_, .inl rfl, rfl⟩
  · split
    · exact .inl ⟨_, .inr rfl, rfl⟩
    · exact .inr ⟨_, by omega, rfl⟩

end Sys2Proof.Machine
end

