-- ==== Sys2Proof/Laws/Commands.lean ====
section
/-! SUPPORT. What a command can do, said once: every next state of an instruction, and of a step, is one of the ends of `CommandEnds`.
Whole-machine facts follow by cases on it. -/

namespace Sys2Proof.Machine

open Host (Outcome)

/-- `n` is a place the cursor may move to from `s`: forward, and inside the input (R21, R55). -/
def State.Cursor (s : State) (n : Nat) : Prop :=
  s.inPos ≤ s.src.bytes.length → s.inPos ≤ n ∧ n ≤ s.src.bytes.length

theorem cursor_self (s : State) : s.Cursor s.inPos := fun h => ⟨Nat.le_refl _, h⟩

/-- Which part of the block a command's end belongs to (R1, R18). -/
inductive BlockUnit where
  /-- The command port: an illegal word (R192). -/
  | port
  | parser
  | framer
deriving DecidableEq, Repr

/-- The unit that executes an instruction (R17). -/
def unitOf (i : Instr) : BlockUnit := if isFramer i then .framer else .parser

/-- The ends of a command (R193, in the order of its list but for the framer's two), with the unit whose end it is. -/
inductive CommandEnds (s : State) : BlockUnit → State → Prop where
  | halted (h : s.isHalted = true) (u : BlockUnit) : CommandEnds s u s.answerHalted
  | illegal (h : s.isHalted = false) (f : FieldId) (hf : f = .opcode ∨ f = .reservedBits) :
      CommandEnds s .port (s.raise .illegalCommand f [])
  | endOfStream (h : s.isHalted = false) (n : Nat) (hn : s.Cursor n) : CommandEnds s .parser { s with inPos := n }.respondEos
  | headerShort (h : s.isHalted = false) (n : Nat) (hn : s.Cursor n) (f : FieldId)
      (hf : f = .headerIo ∨ f = .headerTruncated) : CommandEnds s .parser ({ s with inPos := n }.raise .readFailure f [])
  | headerBad (h : s.isHalted = false) (n : Nat) (hn : s.Cursor n) (bs : List Byte) (f : FieldId)
      (hf : f = .frameLength ∨ f = .samplingFrequencyIndex) :
      CommandEnds s .parser (({ s with inPos := n }.writeHdr bs).raise .malformedFrame f []).releaseHdr
  | blob (h : s.isHalted = false) (bs : List Byte) (sfi : BitVec 4) (ch : BitVec 3) :
      CommandEnds s .parser ((s.writeHdr bs).respond
        { code := .ok, field := .none, frame := s.frames, ts := 0, data := ascBlob sfi ch }).releaseHdr
  | payloadShort (h : s.isHalted = false) (n : Nat) (hn : s.Cursor n) (bs : List Byte) (d : Nat) (f : FieldId)
      (hf : f = .payloadIo ∨ f = .payloadTruncated) (out : List Byte) :
      CommandEnds s .parser ((({ s with inPos := n }.writeHdr bs).advanceTs d).raise .readFailure f out).releaseHdr
  | frame (h : s.isHalted = false) (n : Nat) (hn : s.Cursor n) (bs : List Byte) (d : Nat) (raw : List Byte)
      (hr : raw.length ≤ 8184) :
      CommandEnds s .parser ((({ s with inPos := n }.writeHdr bs).advanceTs d).returnFrame raw).releaseHdr
  | timestamp (h : s.isHalted = false) :
      CommandEnds s .parser (s.respond { code := .ok, field := .none, frame := s.frames, ts := s.ts, data := [] })
  | wrote (h : s.isHalted = false) (bs : List Byte)
      (hb : ∀ limit, s.sink.failAt = some limit → s.outPos ≤ limit → s.outPos + bs.length ≤ limit) :
      CommandEnds s .framer ((s.append bs).respond { code := .ok, field := .none, frame := s.frames, ts := 0, data := [] })
  | writeFailed (h : s.isHalted = false) (bs : List Byte)
      (hb : ∀ limit, s.sink.failAt = some limit → s.outPos ≤ limit → s.outPos + bs.length ≤ limit) :
      CommandEnds s .framer ((s.append bs).raise .writeFailure .sink [])

variable {s t : State}

/-- A framer command writes its bytes (R161, R165). -/
theorem emit_ends (h : s.isHalted = false) (bs : List Byte) : CommandEnds s .framer (s.emit bs) := by
  obtain ⟨hw, he⟩ | ⟨n, -, hn, he⟩ := emit_cases s bs
  · rw [he]
    refine .wrote h bs fun limit hl hp => ?_
    obtain ⟨m, hm, hb⟩ := outWrite_state s bs
    have hlen : bs.length = (bs.take m).length := by
      have := congrArg State.outPos (hm.symm.trans (congrArg Prod.snd hw))
      simpa using this.symm
    rw [hlen]
    exact hb limit hl hp
  · rw [he]
    exact .writeFailed h _ hn

/-- A short header read (R121). -/
theorem endShortHeader_ends (h : s.isHalted = false) {n : Nat} (hn : s.Cursor n) (out : List Byte) (e : Ending) :
    CommandEnds s .parser ({ s with inPos := n }.endShortHeader out e) := by
  obtain he | he | he := endShortHeader_cases { s with inPos := n } out e <;> rw [he]
  · exact .endOfStream h n hn
  · exact .headerShort h n hn _ (.inl rfl)
  · exact .headerShort h n hn _ (.inr rfl)

theorem execAsc_ends (he : execAsc s = .next t) : CommandEnds s .parser t := by
  obtain ⟨h, rfl⟩ | ⟨h, hr⟩ := (unlessHalted_next s).mp he
  · exact .halted h _
  · split at hr
    · simp only [Outcome.next.injEq] at hr
      subst hr
      exact endShortHeader_ends h (cursor_self s) _ _
    · simp only [Outcome.next.injEq] at hr
      subst hr
      obtain ha | ha := answerAsc_cases (s.writeHdr _) (headerFields _) <;> rw [ha]
      · exact .headerBad h s.inPos (cursor_self s) _ _ (.inr rfl)
      · exact .blob h _ _ _

theorem answerNext_ends (h : s.isHalted = false) {n : Nat} (hn : s.Cursor n) (bs : List Byte) (f : HeaderFields) :
    CommandEnds s .parser (({ s with inPos := n }.writeHdr bs).answerNext f).releaseHdr := by
  obtain ⟨field, hf, ha⟩ | ⟨d, hfl, ha⟩ := answerNext_cases ({ s with inPos := n }.writeHdr bs) f <;> rw [ha]
  · exact .headerBad h n hn bs field hf
  · obtain ⟨m, hm, hp⟩ :=
      readPayload_cases (({ s with inPos := n }.writeHdr bs).advanceTs d) (f.fl.toNat - 7)
    have hc : s.Cursor m := fun hs => by
      have h1 := hn hs
      have h2 := hm h1.2
      simp only [State.advanceTs_inPos, State.writeHdr_inPos] at h2
      exact ⟨h1.1.trans h2.1, h2.2⟩
    obtain ⟨field, out, hf, hp⟩ | ⟨raw, hraw, hp⟩ := hp <;> rw [hp]
    · exact .payloadShort h m hc bs d field hf out
    · exact .frame h m hc bs d raw (by have := f.fl.isLt; omega)

theorem execNext_ends (he : execNext s = .next t) : CommandEnds s .parser t := by
  obtain ⟨h, rfl⟩ | ⟨h, hr⟩ := (unlessHalted_next s).mp he
  · exact .halted h _
  · obtain ⟨n, hn, hc⟩ := readExact_state s Config.adtsHeaderLen
    cases hx : s.readExact Config.adtsHeaderLen with
    | mk r u =>
      rw [hx] at hn hr
      simp only at hn
      subst hn
      cases r with
      | short out e =>
        simp only [Outcome.next.injEq] at hr
        subst hr
        exact endShortHeader_ends h hc _ _
      | ok bs =>
        simp only [Outcome.next.injEq] at hr
        subst hr
        exact answerNext_ends h hc bs _

theorem execGetts_ends (he : execGetts s = .next t) : CommandEnds s .parser t := by
  obtain ⟨h, rfl⟩ | ⟨h, hr⟩ := (unlessHalted_next s).mp he
  · exact .halted h _
  · simp only [Outcome.next.injEq] at hr
    subst hr
    exact .timestamp h

theorem execWrhdr_ends {a v : Bool} (he : execWrhdr a v s = .next t) : CommandEnds s .framer t := by
  obtain ⟨h, rfl⟩ | ⟨h, hr⟩ := (unlessHalted_next s).mp he
  · exact .halted h _
  · simp only [Outcome.next.injEq] at hr
    subst hr
    exact emit_ends h _

theorem writeTag_ends {ty : TagType} {ts : Word} {data : List Byte} (he : writeTag ty ts data s = .next t) :
    CommandEnds s .framer t := by
  unfold writeTag at he
  split at he
  · obtain ⟨h, rfl⟩ | ⟨h, hr⟩ := (unlessHalted_next s).mp he
    · exact .halted h _
    · simp only [Outcome.next.injEq] at hr
      subst hr
      exact emit_ends h _
  · simp at he

theorem raiseIllegal_ends {f : FieldId} (hf : f = .opcode ∨ f = .reservedBits) (he : raiseIllegal f s = .next t) :
    CommandEnds s .port t := by
  obtain ⟨h, rfl⟩ | ⟨h, hr⟩ := (unlessHalted_next s).mp he
  · exact .halted h _
  · simp only [Outcome.next.injEq] at hr
    subst hr
    exact .illegal h f hf

/-- Every next state of an instruction is one of its unit's ends. -/
theorem exec_ends {i : Instr} (he : exec i s = .next t) : CommandEnds s (unitOf i) t := by
  cases i with
  | wrhdr a v => exact execWrhdr_ends he
  | asc => exact execAsc_ends he
  | next => exact execNext_ends he
  | getts => exact execGetts_ends he
  | tagA ts data => exact writeTag_ends he
  | tagV ts data => exact writeTag_ends he
  | tagS ts data => exact writeTag_ends he

/-- A step waits, or it takes the command at the head of the port and ends it (R8, R194). -/
theorem step_ends (he : step s = .next t) :
    s.cmds = [] ∧ t = s ∨ ∃ c rest u, s.cmds = c :: rest ∧ CommandEnds { s with cmds := rest } u t := by
  unfold step takeCommand at he
  split at he
  · exact .inl ⟨‹_›, by simpa using he.symm⟩
  · rename_i c rest hc
    unfold runCommand at he
    split at he
    · exact .inr ⟨c, rest, _, hc, exec_ends he⟩
    · exact .inr ⟨c, rest, _, hc, raiseIllegal_ends (decode_illegal_field ‹_›) he⟩
    · simp at he

/-- The first of several steps (Host/Core.lean), where it gives a next state. -/
theorem run_next (k : Nat) (h : step s = .next t) :
    Host.Core.run Sys2Proof.core (k + 1) s = Host.Core.run Sys2Proof.core k t := by
  have run : ∀ (M : Host.Core) (a b : M.State), M.step a = .next b → M.run (k + 1) a = M.run k b :=
    fun M a b hab => by simp [Host.Core.run, hab]
  exact run Sys2Proof.core s t h

/-- A command placed at the port is taken by the next step (R224). -/
theorem issue_eq_exec {i : Instr} (h : decode (encode i) = .instr i) : issue i s = exec i s := by
  simp only [issue, step, takeCommand, State.present, runCommand, h]

end Sys2Proof.Machine
end

