-- ==== Sys2Proof/Laws/Driver.lean ====
section
/-! SUPPORT. What the host does with an answer (`onAnswer`), said once for the macros of R90. -/

namespace Sys2Proof.Machine

open Host (Outcome)

variable {goOn : List RespCode} {o : Outcome State Fault Refusal} {s : State} {r : Resp}
  {next : Resp → State → Outcome State Fault Refusal}

/-- The host goes on after an answer with one of the codes it goes on with. -/
theorem onAnswer_goOn (ho : o = .next s) (hr : s.lastResp = some r) (hc : r.code ∈ goOn) :
    onAnswer goOn o next = next r s := by
  subst ho
  simp only [onAnswer, hr, if_pos hc]

/-- The host stops at any other answer. -/
theorem onAnswer_stop (ho : o = .next s) (hr : s.lastResp = some r) (hc : r.code ∉ goOn) :
    onAnswer goOn o next = .next s := by
  subst ho
  simp only [onAnswer, hr, if_neg hc]

/-- The last response is the one just delivered. -/
theorem lastResp_eq {before : List Resp} (h : s.resps = before ++ [r]) : s.lastResp = some r := by
  simp [State.lastResp, h]

end Sys2Proof.Machine
end

