-- ==== Sys2Proof/Laws/Operands.lean ====
section
/-! SUPPORT. Each format of Machine/Operands.lean equals its form in plain arithmetic (Safety.lean). -/

namespace Sys2Proof.Machine

theorem be24_eq_bytesOfNat (n : Nat) : be24 (BitVec.ofNat 24 n) = bytesOfNat 3 n := by
  simp only [be24, bytesOfNat, List.cons.injEq, and_true]
  refine ⟨?_, ?_, ?_⟩ <;> apply BitVec.eq_of_toNat_eq <;> simp [Nat.shiftRight_eq_div_pow] <;> omega

theorem be32_eq_bytesOfNat (n : Nat) : be32 (BitVec.ofNat 32 n) = bytesOfNat 4 n := by
  simp only [be32, bytesOfNat, List.cons.injEq, and_true]
  refine ⟨?_, ?_, ?_, ?_⟩ <;> apply BitVec.eq_of_toNat_eq <;> simp [Nat.shiftRight_eq_div_pow] <;> omega

theorem flvHeader_eq_spec (a v : Bool) : flvHeader a v = specFlvHeader a v := by cases a <;> cases v <;> decide

theorem tagBytes_eq_spec (code : Byte) (ts : Word) (data : List Byte) : tagBytes code ts data = specTag code ts data := by
  have h1 : ts.extractLsb' 0 24 = BitVec.ofNat 24 (ts.toNat % 2 ^ 24) := by
    apply BitVec.eq_of_toNat_eq
    simp
  have h2 : ts.extractLsb' 24 8 = BitVec.ofNat 8 (ts.toNat / 2 ^ 24) := by
    apply BitVec.eq_of_toNat_eq
    simp [Nat.shiftRight_eq_div_pow]
  unfold tagBytes specTag
  rw [be24_eq_bytesOfNat, be32_eq_bytesOfNat, h1, be24_eq_bytesOfNat, h2]
  simp [bytesOfNat, Config.flvTagHeaderLen]

@[simp] theorem specTag_length (code : Byte) (ts : Word) (data : List Byte) :
    (specTag code ts data).length = 15 + data.length := by
  simp [specTag, bytesOfNat]
  omega

@[simp] theorem specFlvHeader_length (a v : Bool) : (specFlvHeader a v).length = 13 := by simp [specFlvHeader]

theorem sfi_toNat (h : AdtsHeader) : (headerFields h).sfi.toNat = specSfi h := by
  simp [headerFields, specSfi, Nat.shiftRight_eq_div_pow]

theorem nrdb_toNat (h : AdtsHeader) : (headerFields h).nrdb.toNat + 1 = specBlocks h := by
  simp [headerFields, specBlocks]

/-- A field put over a narrower one adds up. -/
theorem or_toNat_of_disjoint {a b k : Nat} (hb : b < 2 ^ k) : a * 2 ^ k ||| b = a * 2 ^ k + b := by
  rw [← Nat.shiftLeft_eq, Nat.shiftLeft_add_eq_or_of_lt hb]

theorem fl_toNat (h : AdtsHeader) : (headerFields h).fl.toNat = specFrameLength h := by
  have h3 := h.b3.isLt
  have h4 := h.b4.isLt
  have h5 := h.b5.isLt
  have e1 : (h.b4.toNat * 2 ^ 3) % 8192 = h.b4.toNat * 2 ^ 3 := Nat.mod_eq_of_lt (by omega)
  have e2 : (h.b3.toNat % 4 * 2 ^ 11) % 8192 = h.b3.toNat % 4 * 2 ^ 11 := Nat.mod_eq_of_lt (by omega)
  have o1 := or_toNat_of_disjoint (a := h.b3.toNat % 4) (b := h.b4.toNat * 2 ^ 3) (k := 11) (by omega)
  have o2 := or_toNat_of_disjoint (a := h.b3.toNat % 4 * 2 ^ 8 + h.b4.toNat) (b := h.b5.toNat / 32) (k := 3) (by omega)
  have e3 : (h.b3.toNat % 4 * 2 ^ 8 + h.b4.toNat) * 2 ^ 3 = h.b3.toNat % 4 * 2 ^ 11 + h.b4.toNat * 2 ^ 3 := by ring
  have e4 : h.b3.toNat % 4 % 8192 = h.b3.toNat % 4 := Nat.mod_eq_of_lt (by omega)
  have e5 : h.b4.toNat % 8192 = h.b4.toNat := Nat.mod_eq_of_lt (by omega)
  have e6 : h.b5.toNat / 2 ^ 5 % 8 = h.b5.toNat / 32 := by omega
  have e7 : h.b5.toNat / 32 % 8192 = h.b5.toNat / 32 := Nat.mod_eq_of_lt (by omega)
  rw [e3] at o2
  simp only [headerFields, BitVec.toNat_or, BitVec.toNat_shiftLeft, BitVec.toNat_setWidth, BitVec.extractLsb'_toNat,
    Nat.shiftRight_eq_div_pow, Nat.shiftLeft_eq, Nat.reducePow, Nat.div_one] at *
  rw [e4, e5, e6, e7, e1, e2, o1, o2]
  simp only [specFrameLength]

theorem ch_toNat (h : AdtsHeader) : (headerFields h).ch.toNat = specCh h := by
  have h3 := h.b3.isLt
  have o1 := or_toNat_of_disjoint (a := h.b2.toNat % 2) (b := h.b3.toNat / 64) (k := 2) (by omega)
  have e1 : h.b2.toNat % 2 % 8 = h.b2.toNat % 2 := Nat.mod_eq_of_lt (by omega)
  have e2 : h.b2.toNat % 2 * 4 % 8 = h.b2.toNat % 2 * 4 := Nat.mod_eq_of_lt (by omega)
  have e3 : h.b3.toNat / 64 % 4 = h.b3.toNat / 64 := by omega
  have e4 : h.b3.toNat / 64 % 8 = h.b3.toNat / 64 := Nat.mod_eq_of_lt (by omega)
  simp only [headerFields, BitVec.toNat_or, BitVec.toNat_shiftLeft, BitVec.toNat_setWidth, BitVec.extractLsb'_toNat,
    Nat.shiftRight_eq_div_pow, Nat.shiftLeft_eq, Nat.reducePow, Nat.div_one] at *
  rw [e1, e2, e3, e4, o1]
  simp only [specCh]

theorem sampleRate_eq_spec (h : AdtsHeader) : sampleRate (headerFields h).sfi = specRate (specSfi h) := by
  simp [sampleRate, specRate, Config.srTable, sfi_toNat]

theorem specRate_isSome_iff (n : Nat) : (∃ rate, specRate n = some rate) ↔ n ≤ 12 := by
  rw [← Option.isSome_iff_exists, specRate, isSome_getElem?]
  simp only [List.length_cons, List.length_nil]
  omega

/-- The duration of a frame whose rate exists (R133). -/
theorem frameDuration_eq_spec (h : AdtsHeader) {rate : Nat} (hr : specRate (specSfi h) = some rate) :
    frameDuration (headerFields h).nrdb rate = specDuration h := by
  simp [frameDuration, specDuration, hr, nrdb_toNat]

theorem ascBlob_eq_spec (h : AdtsHeader) : ascBlob (headerFields h).sfi (headerFields h).ch = specAscBlob h := by
  simp only [specAscBlob, ← sfi_toNat, ← ch_toNat]
  generalize (headerFields h).sfi = sfi
  generalize (headerFields h).ch = ch
  unfold ascBlob
  simp only [List.cons.injEq, and_true, true_and]
  constructor
  · revert sfi ch
    decide
  · revert sfi ch
    decide

/-- The bytes of a header, written to HDR, are that header (R34). -/
@[simp] theorem writeHdr_headerBytes (s : State) (h : AdtsHeader) : (s.writeHdr (headerBytes h)).hdr = h := rfl

@[simp] theorem headerBytes_length (h : AdtsHeader) : (headerBytes h).length = 7 := rfl

end Sys2Proof.Machine
end

