-- ==== Sys2Proof/Laws/PerInstr.lean ====
section
/-! SUPPORT. Facts about every instruction as syntax, one lemma per constructor. -/

namespace Sys2Proof.Laws.RecordLength

/-- The record of a well-formed instruction carries as many data bytes as its word says (R88), and none where the command has no
operand (R80). -/
def Statement (i : Instr) : Prop :=
  wellFormed i = true →
    (encode i).data.length =
      if wordOp (encode i).word ∈ [0x08, 0x09, 0x12] then (wordArg (encode i).word).toNat else 0

theorem tag_record {op : BitVec 8} (ts : Word) {data : List Byte} (ho : op ∈ [0x08, 0x09, 0x12])
    (hd : tagDataFits data = true) :
    (tagCmd op ts data).data.length =
      if wordOp (tagCmd op ts data).word ∈ [0x08, 0x09, 0x12] then (wordArg (tagCmd op ts data).word).toNat else 0 := by
  have hl : data.length < 2 ^ 24 := (tagDataFits_iff data).mp hd
  simp only [tagCmd, wordOp_pack, wordArg_pack, if_pos ho, BitVec.toNat_ofNat, Nat.mod_eq_of_lt hl]

theorem wrhdr (hasAudio hasVideo : Bool) : Statement (.wrhdr hasAudio hasVideo) := fun _ => by
  simp [encode, bareCmd]

theorem asc : Statement .asc := fun _ => by simp [encode, bareCmd]

theorem next : Statement .next := fun _ => by simp [encode, bareCmd]

theorem getts : Statement .getts := fun _ => by simp [encode, bareCmd]

theorem tagA (ts : Word) (data : List Byte) : Statement (.tagA ts data) := tag_record ts (by decide)

theorem tagV (ts : Word) (data : List Byte) : Statement (.tagV ts data) := tag_record ts (by decide)

theorem tagS (ts : Word) (data : List Byte) : Statement (.tagS ts data) := tag_record ts (by decide)

end Sys2Proof.Laws.RecordLength
end

