-- ==== Sys2Proof/Machine/Assembler.lean ====
section
/-! DEFINITION. Assembler lines (30_encoding.md R89): their operands, which may name an earlier response, their text, and a program
as the host issues it, one line at a time (70_reset_and_hazards.md R224). The command words are `encode`'s. -/

namespace Sys2Proof.Machine

open Host (Outcome)

/-- A timestamp operand (R89): a number, or `<name>.ts`. -/
inductive TsOperand where
  | lit (ts : Word)
  | ofResp (name : String)
deriving DecidableEq, Repr

/-- A data operand (R89): bytes in brackets, or `<name>.data`. -/
inductive DataOperand where
  | lit (data : List Byte)
  | ofResp (name : String)
deriving DecidableEq, Repr

/-- One line of a program (R89); ASC and NEXT may name their response. -/
inductive AsmLine where
  | wrhdr (hasAudio hasVideo : Bool)
  | asc (name : Option String)
  | next (name : Option String)
  | getts
  | tag (t : TagType) (ts : TsOperand) (data : DataOperand)
deriving DecidableEq, Repr

/-- The responses a program has named so far, the latest first. -/
abbrev Named := List (String × Resp)

/-- The value of a timestamp operand. -/
def TsOperand.value (env : Named) : TsOperand → Option Word
  | .lit ts => some ts
  | .ofResp name => (env.lookup name).map Resp.ts

/-- The value of a data operand. -/
def DataOperand.value (env : Named) : DataOperand → Option (List Byte)
  | .lit data => some data
  | .ofResp name => (env.lookup name).map Resp.data

/-- The instruction of a line, none where it uses a name that no line gave. -/
def AsmLine.instr (env : Named) : AsmLine → Option Instr
  | .wrhdr a v => some (.wrhdr a v)
  | .asc _ => some .asc
  | .next _ => some .next
  | .getts => some .getts
  | .tag t ts data =>
    match ts.value env, data.value env with
    | some ts, some data => some (tagInstr t ts data)
    | _, _ => none

/-- The name a line gives its response. -/
def AsmLine.binds : AsmLine → Option String
  | .asc name => name
  | .next name => name
  | _ => none

/-- The names after a line was answered with `r`. -/
def bindName (line : AsmLine) (r : Option Resp) (env : Named) : Named :=
  match line.binds, r with
  | some name, some r => (name, r) :: env
  | _, _ => env

/-- The host runs a program line by line, and stops at a line whose operands no response gives. -/
def runProgram : List AsmLine → Named → State → Outcome State Fault Refusal
  | [], _, s => .next s
  | line :: rest, env, s =>
    match line.instr env with
    | none => .next s
    | some i =>
      match issue i s with
      | .next s => runProgram rest (bindName line s.lastResp env) s
      | .fault f => .fault f
      | .refused r => .refused r

/-- A byte as two hex digits. -/
def hexByte (b : Byte) : String :=
  String.ofList [Nat.digitChar (b.toNat / 16), Nat.digitChar (b.toNat % 16)]

/-- The text of a timestamp operand (R89), a number in decimal. -/
def TsOperand.text : TsOperand → String
  | .lit ts => toString ts.toNat
  | .ofResp name => name ++ ".ts"

/-- The text of a data operand (R89). -/
def DataOperand.text : DataOperand → String
  | .lit data => "[" ++ String.intercalate " " (data.map hexByte) ++ "]"
  | .ofResp name => name ++ ".data"

/-- The mnemonic of a tag type's command (R82). -/
def TagType.mnemonic : TagType → String
  | .audio => "TAG.A"
  | .video => "TAG.V"
  | .script => "TAG.S"

/-- The argument of WRHDR in R89. -/
def wrhdrText : Bool → Bool → String
  | false, false => "none"
  | true, false => "audio"
  | false, true => "video"
  | true, true => "audio|video"

/-- A command's text after the name it gives its response, if any (R89). -/
def withName (name : Option String) (text : String) : String :=
  match name with
  | some n => n ++ " = " ++ text
  | none => text

/-- The text of a line (R89). -/
def AsmLine.text : AsmLine → String
  | .wrhdr a v => "WRHDR " ++ wrhdrText a v
  | .asc name => withName name "ASC"
  | .next name => withName name "NEXT"
  | .getts => "GETTS"
  | .tag t ts data => TagType.mnemonic t ++ " " ++ ts.text ++ ", " ++ data.text

end Sys2Proof.Machine
end

