-- ==== Sys2Proof/Tests/Slice0.lean ====
section
/-! SUPPORT. The model's own tests: ill-formed terms that WellFormed refuses, words written out from 30_encoding.md R81 to R89 and
what they decode to, single steps with the results that 95_test_vectors.md gives, and for every statement with premises a concrete
case that meets them. -/

namespace Sys2Proof.Tests

open Sys2Proof Sys2Proof.Machine
open Host (Outcome)

/-! ### WellFormed -/

/-- TAG data one byte longer than the length field can say (R88). -/
def tooLong : List Byte := List.replicate (2 ^ 24) 0

theorem tooLong_length : tooLong.length = 2 ^ 24 := by rw [tooLong, List.length_replicate]

theorem tooLong_refused : tagDataFits tooLong = false := by
  rw [Bool.eq_false_iff, ne_eq, tagDataFits_iff, tooLong_length]
  exact Nat.lt_irrefl _

theorem test_wellFormed_refuses_tagA : wellFormed (.tagA 0 tooLong) = false := tooLong_refused

theorem test_wellFormed_refuses_tagV : wellFormed (.tagV 0 tooLong) = false := tooLong_refused

theorem test_wellFormed_refuses_tagS : wellFormed (.tagS 0 tooLong) = false := tooLong_refused

theorem test_wellFormed_accepts_longest : wellFormed (.tagA 0 (List.replicate (2 ^ 24 - 1) 0)) = true :=
  (tagDataFits_iff _).mpr (by rw [List.length_replicate]; exact Nat.sub_lt (Nat.two_pow_pos 24) Nat.one_pos)

/-! ### Decoding: the bits of each word as R81 to R83 lay them out -/

/-- 0x01 in 31:24, A in bit 2, V in bit 0. -/
theorem test_decode_wrhdr :
    decode (bareCmd 0b00000001000000000000000000000000) = .instr (.wrhdr false false) ∧
    decode (bareCmd 0b00000001000000000000000000000100) = .instr (.wrhdr true false) ∧
    decode (bareCmd 0b00000001000000000000000000000001) = .instr (.wrhdr false true) ∧
    decode (bareCmd 0b00000001000000000000000000000101) = .instr (.wrhdr true true) := by decide

theorem test_decode_asc : decode (bareCmd 0b00000010000000000000000000000000) = .instr .asc := by decide

theorem test_decode_next : decode (bareCmd 0b00000011000000000000000000000000) = .instr .next := by decide

theorem test_decode_getts : decode (bareCmd 0b00000100000000000000000000000000) = .instr .getts := by decide

/-- 0x08 in 31:24, L = 2 in 23:0. -/
theorem test_decode_tagA :
    decode { word := 0b00001000000000000000000000000010, ts := 0x01020304, data := [0xAA, 0xBB] } =
      .instr (.tagA 0x01020304 [0xAA, 0xBB]) := by decide

/-- 0x09 in 31:24, L = 3 in 23:0. -/
theorem test_decode_tagV :
    decode { word := 0b00001001000000000000000000000011, ts := 0x12345678, data := [0xAB, 0xCD, 0xEF] } =
      .instr (.tagV 0x12345678 [0xAB, 0xCD, 0xEF]) := by decide

/-- 0x12 in 31:24, L = 1 in 23:0. -/
theorem test_decode_tagS :
    decode { word := 0b00010010000000000000000000000001, ts := 0xFF000000, data := [0x02] } =
      .instr (.tagS 0xFF000000 [0x02]) := by decide

/-- DC2 to DC7 of 95_test_vectors.md. -/
theorem test_decode_reserved_bits :
    decode (bareCmd 0x01000002) = .illegal .reservedBits ∧
    decode (bareCmd 0x01000008) = .illegal .reservedBits ∧
    decode (bareCmd 0x01800004) = .illegal .reservedBits ∧
    decode (bareCmd 0x02000001) = .illegal .reservedBits ∧
    decode (bareCmd 0x03000100) = .illegal .reservedBits ∧
    decode (bareCmd 0x04FFFFFF) = .illegal .reservedBits := by decide

/-- DC1 and DC8 of 95_test_vectors.md. -/
theorem test_decode_unassigned :
    decode (bareCmd 0x00000000) = .illegal .opcode ∧
    decode (bareCmd 0x05000000) = .illegal .opcode ∧
    decode (bareCmd 0x07000000) = .illegal .opcode ∧
    decode (bareCmd 0x0A000000) = .illegal .opcode ∧
    decode (bareCmd 0x11000000) = .illegal .opcode ∧
    decode (bareCmd 0x13000000) = .illegal .opcode ∧
    decode (bareCmd 0xFF000000) = .illegal .opcode := by decide

/-- A TAG that announces two bytes and carries one, or carries three (R88). -/
theorem test_decode_wrong_length :
    decode { word := 0x08000002, ts := 0, data := [0xAA] } = .badLength ∧
    decode { word := 0x08000002, ts := 0, data := [0xAA, 0xBB, 0xCC] } = .badLength := by decide

/-- The operands of a TAG follow its word: the timestamp in the next 32 bits, then the data, the first byte lowest. -/
theorem test_decode_table_word :
    decodeTableWord 32 0x01000005 = some (.wrhdr true true) ∧ decodeTableWord 32 0x12000000 = some (.tagS 0 []) ∧
    decodeTableWord 80 0xBBAA0102030408000002 = some (.tagA 0x01020304 [0xAA, 0xBB]) ∧
    decodeTableWord 32 0x05000000 = none := by decide

/-! ### Single steps, from 95_test_vectors.md -/

/-- The block after reset with this input, whose next command has the word `w`. -/
def given (input : List Byte) (ending : Ending) (w : Word) : State :=
  (State.resetWith { bytes := input, ending := ending } none).present (bareCmd w)

/-- What an outcome that is a next state shows. -/
def shows {α : Type} (o : Outcome State Fault Refusal) (f : State → α) : Option α :=
  match o with
  | .next s => some (f s)
  | .fault _ => none
  | .refused _ => none

/-- `FF F1 50 80 01 3F FC`: 44.1 kHz, two channels, frameLength 9, one block. -/
def header9 : AdtsHeader := { b0 := 0xFF, b1 := 0xF1, b2 := 0x50, b3 := 0x80, b4 := 0x01, b5 := 0x3F, b6 := 0xFC }

/-- The frame of NX1. -/
def frame9 : InputFrame := { header := header9, raw := [0xDE, 0xAD] }

/-- NX2's header, frameLength 7. -/
def header7 : AdtsHeader := { header9 with b4 := 0x00, b5 := 0xFF }

/-- NX1. -/
theorem test_next_returns_frame :
    shows (step (given frame9.bytes .eos 0x03000000)) (fun s =>
      (s.ts, s.frames, s.inPos, s.status)) = some (23, 1, 9, 0) ∧
    shows (step (given frame9.bytes .eos 0x03000000)) (fun s => s.resps.map fun r => (r.code, r.ts, r.data.drop 1)) =
      some [(.ok, 23, [0x01, 0xDE, 0xAD])] := by decide

/-- NX16 and NX17: TS and FRAMES wrap. -/
theorem test_next_wraps :
    shows (step { given (headerBytes header7) .eos 0x03000000 with ts := 0xFFFFFFF0, frames := 0xFFFFFFFF }) (fun s =>
      (s.ts, s.frames, s.resps.map fun r => (r.code, r.frame, r.ts))) =
    some (7, 0, [(.ok, 0xFFFFFFFF, 7)]) := by decide

/-- AS5: the blob of sfi 12, channel value 7; nothing is consumed. -/
theorem test_asc_blob :
    shows (step (given [0xFF, 0xF1, 0x71, 0xC0, 0x01, 0x3F, 0xFC] .eos 0x02000000)) (fun s =>
      (s.inPos, s.status, s.resps.map fun r => (r.code, r.data.drop 1))) =
    some (0, 0, [(.ok, [0x00, 0x16, 0x38])]) := by decide

/-- AS7: sfi 13. -/
theorem test_asc_bad_index :
    shows (step (given [0xFF, 0xF1, 0x74, 0x80, 0x01, 0x3F, 0xFC] .eos 0x02000000)) (fun s =>
      (s.inPos, s.status, s.resps.map fun r => (r.code, r.field))) =
    some (0, 0x223, [(.malformedFrame, .samplingFrequencyIndex)]) := by decide

/-- GT2. -/
theorem test_getts :
    step { given [] .eos 0x04000000 with ts := 23, frames := 1 } =
      .next { State.reset with
        ts := 23, frames := 1, resps := [{ code := .ok, field := .none, frame := 1, ts := 23, data := [] }] } := by rfl

/-- GT3: a halted block answers HALTED and keeps its STATUS. -/
theorem test_getts_halted :
    shows (step { given [] .eos 0x04000000 with status := 0x213, ts := 5 }) (fun s =>
      (s.status, s.ts, s.resps.map fun r => (r.code, r.ts))) = some (0x213, 5, [(.halted, 0)]) := by decide

/-- WH2. -/
theorem test_wrhdr :
    shows (step (given [] .eos 0x01000004)) (fun s => (s.sink.accepted, s.outPos, s.status)) =
    some ([0x46, 0x4C, 0x56, 0x01, 0x04, 0x00, 0x00, 0x00, 0x09, 0x00, 0x00, 0x00, 0x00], 13, 0) := by decide

/-- WH6: a sink that fails after five bytes. -/
theorem test_wrhdr_sink_fails :
    shows (step { given [] .eos 0x01000004 with sink := { accepted := [], failAt := some 5 } }) (fun s =>
      (s.sink.accepted, s.outPos, s.status)) = some ([0x46, 0x4C, 0x56, 0x01, 0x04], 5, 0x274) := by decide

/-- TG1, the worked example of the source. -/
theorem test_tagA :
    shows (exec (.tagA 0x01020304 [0xAA, 0xBB]) State.reset) (fun s => (s.sink.accepted, s.outPos, s.status)) =
    some ([0x08, 0x00, 0x00, 0x02, 0x02, 0x03, 0x04, 0x01, 0x00, 0x00, 0x00, 0xAA, 0xBB, 0x00, 0x00, 0x00, 0x0D], 17, 0) := by
  decide

/-- TG6. -/
theorem test_tagV :
    shows (exec (.tagV 0x12345678 [0xAB, 0xCD, 0xEF]) State.reset) (fun s => s.sink.accepted) =
    some [0x09, 0x00, 0x00, 0x03, 0x34, 0x56, 0x78, 0x12, 0x00, 0x00, 0x00, 0xAB, 0xCD, 0xEF, 0x00, 0x00, 0x00, 0x0E] := by
  decide

/-- TG9. -/
theorem test_tagS :
    shows (exec (.tagS 0xFF000000 [0x02]) State.reset) (fun s => s.sink.accepted) =
    some [0x12, 0x00, 0x00, 0x01, 0x00, 0x00, 0x00, 0xFF, 0x00, 0x00, 0x00, 0x02, 0x00, 0x00, 0x00, 0x0C] := by decide

/-- The text of a line of R89. -/
theorem test_assembler_text :
    AsmLine.text (.tag .audio (.ofResp "f") (.lit [0xAA, 0x0B])) = "TAG.A f.ts, [aa 0b]" ∧
    AsmLine.text (.wrhdr true true) = "WRHDR audio|video" := by decide

/-! ### The premises of the statements can be met -/

/-- A block halted by a malformed frame (NX4), at frame 3. -/
def haltedBlock : State := { State.reset with status := 0x0213, errFrame := 3, frames := 3 }

/-- A sink with room for exactly `n` bytes. -/
def room (n : Nat) : State := State.resetWith { bytes := [], ending := .eos } (some n)

/-- The block after reset with this input and no command at the port. -/
def attached (input : List Byte) (ending : Ending) : State := State.resetWith { bytes := input, ending := ending } none

theorem test_premises_DecodeEncodeAgree :
    wellFormed (.wrhdr true false) = true ∧ wellFormed (.tagV 7 [1, 2, 3]) = true := by decide

theorem test_premises_EncodeDecodeAgree :
    decode (bareCmd 0x01000005) = .instr (.wrhdr true true) ∧
    decode { word := 0x09000001, ts := 6, data := [5] } = .instr (.tagV 6 [5]) := by decide

theorem test_premises_IllegalWordsExactly :
    decode (bareCmd 0x01000002) = .illegal .reservedBits ∧ decode (bareCmd 0x13000000) = .illegal .opcode ∧
    (0x08000001#32).toNat / 2 ^ 24 ∈ [0x08, 0x09, 0x12] ∧ ([9] : List Byte).length = (0x08000001#32).toNat % 2 ^ 24 := by decide

theorem test_premises_EncodedWords : ([] : List Byte).length < 2 ^ 24 ∧ ([1, 2] : List Byte).length < 2 ^ 24 := by decide

theorem test_premises_StepRunsDecodedInstruction :
    (given [] .eos 0x04000000).cmds = bareCmd 0x04000000 :: [] ∧ decode (bareCmd 0x04000000) = .instr .getts := by decide

theorem test_premises_IdleStepChangesNothing : State.reset.cmds = [] := rfl

theorem test_premises_IllegalWordHalts :
    (given [] .eos 0x00000000).isHalted = false ∧ (given [] .eos 0x00000000).cmds = bareCmd 0x00000000 :: [] ∧
    decode (bareCmd 0x00000000) = .illegal .opcode ∧
    (given [] .eos 0x02800000).isHalted = false ∧ (given [] .eos 0x02800000).cmds = bareCmd 0x02800000 :: [] ∧
    decode (bareCmd 0x02800000) = .illegal .reservedBits := by decide

theorem test_premises_HaltedBlockAnswersHalted :
    haltedBlock.isHalted = true ∧ decode (bareCmd 0x03000000) ≠ .badLength ∧ decode (bareCmd 0xFF000000) ≠ .badLength ∧
    (haltedBlock.present (bareCmd 0xFF000000)).cmds = bareCmd 0xFF000000 :: [] ∧
    (haltedBlock.present (bareCmd 0xFF000000)).isHalted = true := by decide

theorem test_premises_EveryInstructionChecksHalt : wellFormed (.tagS 1 [2]) = true ∧ haltedBlock.isHalted = true := by decide

/-- One byte too few for L = 1, and one byte more than L can say. -/
theorem test_premises_WrongLengthTagRefused :
    (∃ s : State, s.cmds = { word := 0x12000001, ts := 0, data := [] } :: []) ∧
    (0x12000001#32).toNat / 2 ^ 24 ∈ [0x08, 0x09, 0x12] ∧ ([] : List Byte).length ≠ (0x12000001#32).toNat % 2 ^ 24 ∧
    2 ^ 24 ≤ tooLong.length :=
  ⟨⟨State.reset.present _, rfl⟩, by decide, by decide, Nat.le_of_eq tooLong_length.symm⟩

theorem test_premises_EveryCommandIsAnsweredOnce :
    (given [] .eos 0xFF000000).cmds = bareCmd 0xFF000000 :: [] ∧ decode (bareCmd 0xFF000000) ≠ .badLength := by decide

/-- A sink with room for exactly the 13 bytes. -/
theorem test_premises_WrhdrWritesFlvHeader :
    (room 13).isHalted = false ∧ ∀ n, (room 13).sink.failAt = some n → (room 13).outPos + 13 ≤ n :=
  ⟨rfl, fun n h => by cases h; decide⟩

/-- A sink with room for exactly the 17 bytes. -/
theorem test_premises_TagsWriteFlvTag :
    (room 17).isHalted = false ∧ ([0xAA, 0xBB] : List Byte).length < 2 ^ 24 ∧
      ∀ n, (room 17).sink.failAt = some n → (room 17).outPos + (15 + ([0xAA, 0xBB] : List Byte).length) ≤ n :=
  ⟨rfl, by decide, fun n h => by cases h; decide⟩

/-- No byte accepted, and all but the last. -/
theorem test_premises_SinkFailureKeepsAcceptedBytes :
    isFramer (.wrhdr true false) = true ∧ wellFormed (.wrhdr true false) = true ∧
    (room 0).isHalted = false ∧ (room 0).sink.failAt = some 0 ∧ (room 0).outPos ≤ 0 ∧
      0 < (room 0).outPos + (specEmits (.wrhdr true false)).length ∧
    (room 12).isHalted = false ∧ (room 12).sink.failAt = some 12 ∧ (room 12).outPos ≤ 12 ∧
      12 < (room 12).outPos + (specEmits (.wrhdr true false)).length := by decide

theorem test_premises_TagTimestampAndTrailer : (List.replicate 256 (0 : Byte)).length < 2 ^ 24 := by
  rw [List.length_replicate]; decide

/-- sfi 12, the largest valid index, and sfi 4 with bytes after the header. -/
theorem test_premises_AscReturnsBlob :
    (attached frame9.bytes .eos).isHalted = false ∧
    (attached frame9.bytes .eos).src.bytes.drop (attached frame9.bytes .eos).inPos = headerBytes header9 ++ [0xDE, 0xAD] ∧
    specSfi header9 ≤ 12 ∧ specSfi { header9 with b2 := 0x71 } = 12 := by decide

theorem test_premises_AscRejectsBadIndex :
    let hd := { header9 with b2 := 0x74 }
    (attached (headerBytes hd) .eos).isHalted = false ∧
    (attached (headerBytes hd) .eos).src.bytes.drop (attached (headerBytes hd) .eos).inPos = headerBytes hd ++ [] ∧
    13 ≤ specSfi hd ∧ 13 = specSfi hd := by decide

/-- No byte, one byte and six bytes; both endings. -/
theorem test_premises_ShortHeaderClassified :
    (let s := attached [] .eos
     s.isHalted = false ∧ s.inPos ≤ s.src.bytes.length ∧ s.src.bytes.length < s.inPos + 7 ∧ s.inPos = s.src.bytes.length ∧
       s.src.ending = .eos) ∧
    (let s := attached [] .ioerr
     s.isHalted = false ∧ s.inPos ≤ s.src.bytes.length ∧ s.src.bytes.length < s.inPos + 7 ∧ s.src.ending = .ioerr) ∧
    (let s := attached [0xFF] .eos
     s.isHalted = false ∧ s.src.bytes.length < s.inPos + 7 ∧ s.inPos < s.src.bytes.length ∧ s.src.ending = .eos) ∧
    (let s := attached [0xFF, 0xF1, 0x50, 0x80, 0x01, 0x3F] .eos
     s.isHalted = false ∧ s.src.bytes.length < s.inPos + 7 ∧ s.inPos < s.src.bytes.length ∧ s.src.ending = .eos) := by decide

/-- frameLength 9, and 7 with no payload. -/
theorem test_premises_NextReturnsFrame :
    (let s := attached (frame9.bytes ++ [0x99]) .eos
     s.isHalted = false ∧ frame9.Ok ∧ s.src.bytes.drop s.inPos = frame9.bytes ++ [0x99]) ∧
    (let s := attached (headerBytes header7) .ioerr
     s.isHalted = false ∧ InputFrame.Ok { header := header7, raw := [] } ∧
       s.src.bytes.drop s.inPos = InputFrame.bytes { header := header7, raw := [] } ++ []) :=
  ⟨⟨rfl, ⟨⟨by decide, by decide⟩, by decide⟩, rfl⟩, ⟨rfl, ⟨⟨by decide, by decide⟩, by decide⟩, rfl⟩⟩

/-- frameLength 6 with a valid index, and frameLength 9 with index 13. -/
theorem test_premises_NextRejectsMalformedHeader :
    (let hd := { header9 with b4 := 0x00, b5 := 0xDF }
     let s := attached (headerBytes hd) .eos
     s.isHalted = false ∧ s.src.bytes.drop s.inPos = headerBytes hd ++ [] ∧ specFrameLength hd = 6 ∧ ¬ specHeaderOk hd) ∧
    (let hd := { header9 with b2 := 0x74 }
     let s := attached (headerBytes hd) .eos
     s.isHalted = false ∧ s.src.bytes.drop s.inPos = headerBytes hd ++ [] ∧ specFrameLength hd = 9 ∧ ¬ specHeaderOk hd) := by
  unfold specHeaderOk
  decide

/-- No payload byte and an end of stream, and all but one and a read failure. -/
theorem test_premises_NextPayloadShort :
    (let s := attached (headerBytes header9) .eos
     s.isHalted = false ∧ s.src.bytes.drop s.inPos = headerBytes header9 ++ [] ∧ 7 + ([] : List Byte).length < 9) ∧
    (let s := attached (headerBytes header9 ++ [0x01]) .ioerr
     s.isHalted = false ∧ s.src.bytes.drop s.inPos = headerBytes header9 ++ [0x01] ∧ s.src.ending = .ioerr ∧
       7 + ([0x01] : List Byte).length < 9) ∧
    specHeaderOk header9 ∧ specFrameLength header9 = 9 := by
  unfold specHeaderOk
  decide

theorem test_premises_NextAtEndOfStreamRepeats :
    State.reset.isHalted = false ∧ State.reset.inPos = State.reset.src.bytes.length ∧ State.reset.src.ending = .eos := by
  decide

theorem test_premises_GettsReturnsTimestamp : State.reset.isHalted = false := rfl

theorem test_premises_AscIsIdempotent :
    ∃ t, (attached frame9.bytes .eos).isHalted = false ∧ exec .asc (attached frame9.bytes .eos) = .next t ∧
      t.isHalted = false := ⟨_, rfl, rfl, rfl⟩

/-- Another syncword, layer, profile, private bit and buffer fullness; NEXT and ASC. -/
theorem test_premises_OnlyTheFourFieldsAreRead :
    let h : AdtsHeader := header9
    let h' : AdtsHeader := { b0 := 0x00, b1 := 0x06, b2 := 0x92, b3 := 0xBC, b4 := 0x01, b5 := 0x20, b6 := 0x00 }
    let s := attached ([] ++ headerBytes h ++ [0xDE, 0xAD]) .eos
    s.src.bytes = [] ++ headerBytes h ++ [0xDE, 0xAD] ∧ s.inPos = ([] : List Byte).length ∧
    h.b2 &&& 0x3D = h'.b2 &&& 0x3D ∧ h.b3 &&& 0xC3 = h'.b3 &&& 0xC3 ∧ h.b4 = h'.b4 ∧ h.b5 &&& 0xE0 = h'.b5 &&& 0xE0 ∧
    h.b6 &&& 0x03 = h'.b6 &&& 0x03 ∧ (∃ t, exec .next s = .next t) ∧ (∃ t, exec .asc s = .next t) :=
  ⟨rfl, rfl, rfl, rfl, rfl, rfl, rfl, ⟨_, rfl⟩, ⟨_, rfl⟩⟩

theorem test_premises_DurationRange : sampleRate 0 = some 96000 ∧ sampleRate 12 = some 7350 := by decide

/-- Two bytes, none, then all that are left. -/
theorem test_premises_ChunkSizesHaveNoEffect :
    (attached frame9.bytes .eos).inPos ≤ (attached frame9.bytes .eos).src.bytes.length ∧
    ∃ r, readLoop [2, 0, 9] 7 (attached frame9.bytes .eos) [] = some r := ⟨by decide, _, rfl⟩

theorem test_premises_RetryLoopEnds : (∀ c ∈ [1, 1, 5], 1 ≤ c) ∧ 3 ≤ [1, 1, 5].length := by decide

theorem test_premises_FramerLeavesParserAlone :
    isFramer (.tagA 1 [2]) = true ∧
    (∃ t, exec (.tagA 1 [2]) State.reset = .next t ∧ t.isHalted = false) ∧
    ∃ t, exec (.wrhdr true true) (room 3) = .next t ∧ t.isHalted = true := ⟨rfl, ⟨_, rfl, rfl⟩, ⟨_, rfl, rfl⟩⟩

theorem test_premises_ParserWritesOnlyItsOwn :
    (isFramer .asc = false ∧ ∃ t, exec .asc (attached frame9.bytes .eos) = .next t ∧ t.isHalted = false) ∧
    (isFramer .getts = false ∧ ∃ t, exec .getts (attached frame9.bytes .eos) = .next t ∧ t.isHalted = false) :=
  ⟨⟨rfl, _, rfl, rfl⟩, ⟨rfl, _, rfl, rfl⟩⟩

theorem test_premises_HiddenBuffersAreNotRead : ∃ t, exec .next (attached frame9.bytes .eos) = .next t := ⟨_, rfl⟩

theorem test_premises_FramerDoesNotReadParser :
    isFramer (.tagS 1 []) = true ∧ ∃ t, exec (.tagS 1 []) State.reset = .next t := ⟨rfl, _, rfl⟩

/-- A step that halts the block, and one of a block that is halted. -/
theorem test_premises_ErrFrameRecordsTheFrame :
    (∃ t r, step (given [0xFF] .eos 0x03000000) = .next t ∧ (given [0xFF] .eos 0x03000000).isHalted = false ∧
      t.isHalted = true ∧ t.resps = (given [0xFF] .eos 0x03000000).resps ++ [r] ∧ r.code = .readFailure) ∧
    ∃ t, step (haltedBlock.present (bareCmd 0x03000000)) = .next t ∧ t.isHalted = true :=
  ⟨⟨_, _, rfl, rfl, rfl, rfl, rfl⟩, ⟨_, rfl, rfl⟩⟩

theorem test_premises_HaltAndEosAreSticky :
    (∃ t, step (haltedBlock.present (bareCmd 0x04000000)) = .next t ∧ haltedBlock.isHalted = true) ∧
    ∃ t, step { given [] .eos 0x04000000 with status := 0x0101 } = .next t := ⟨⟨_, rfl, rfl⟩, ⟨_, rfl⟩⟩

theorem test_premises_FatalCodesHalt :
    ∃ t r, (given [] .eos 0x05000000).isHalted = false ∧ step (given [] .eos 0x05000000) = .next t ∧
      t.resps = (given [] .eos 0x05000000).resps ++ [r] ∧ r.code = .illegalCommand := ⟨_, _, rfl, rfl, rfl, rfl⟩

/-- An answer that STATUS records, and a HALTED one. -/
theorem test_premises_StatusRecordsTheAnswer :
    (∃ t r, step (given [] .eos 0x03000000) = .next t ∧ t.resps = (given [] .eos 0x03000000).resps ++ [r] ∧
      r.code = .endOfStream) ∧
    ∃ t r, step (haltedBlock.present (bareCmd 0x03000000)) = .next t ∧
      t.resps = (haltedBlock.present (bareCmd 0x03000000)).resps ++ [r] ∧ r.code = .halted :=
  ⟨⟨_, _, rfl, rfl, rfl⟩, ⟨_, _, rfl, rfl, rfl⟩⟩

theorem test_premises_EosIsSetByEndOfStream :
    ∃ t r, step (given [] .eos 0x02000000) = .next t ∧ t.resps = (given [] .eos 0x02000000).resps ++ [r] ∧
      r.code = .endOfStream := ⟨_, _, rfl, rfl, rfl⟩

theorem test_premises_StreamsOnlyGrow :
    (given frame9.bytes .eos 0x03000000).inPos ≤ (given frame9.bytes .eos 0x03000000).src.bytes.length ∧
    ∃ t, step (given frame9.bytes .eos 0x03000000) = .next t := ⟨by decide, _, rfl⟩

theorem test_premises_StepKeepsStreamsOk :
    (given frame9.bytes .eos 0x03000000).StreamsOk ∧ ∃ t, step (given frame9.bytes .eos 0x03000000) = .next t :=
  ⟨⟨rfl, (fun _ h => nomatch h), by decide, by decide⟩, _, rfl⟩

theorem test_premises_StepKeepsControlOk :
    (haltedBlock.present (bareCmd 0x04000000)).ControlOk ∧ (given frame9.bytes .eos 0x03000000).ControlOk ∧
    ∃ t, step (given frame9.bytes .eos 0x03000000) = .next t :=
  ⟨by unfold State.ControlOk; decide, by unfold State.ControlOk; decide, _, rfl⟩

theorem test_premises_StepKeepsFramesCounted :
    (given frame9.bytes .eos 0x03000000).FramesCounted ∧ ∃ t, step (given frame9.bytes .eos 0x03000000) = .next t :=
  ⟨rfl, _, rfl⟩

/-- The two frames of P1, and no frame at all. -/
theorem test_premises_FramingOfWellFormedInput :
    (∀ f ∈ [frame9, frame9], f.Ok) ∧
    (let s := { attached (frame9.bytes ++ frame9.bytes) .eos with cmds := List.replicate 3 (bareCmd 0x03000000) }
     s.isHalted = false ∧ s.src.bytes.drop s.inPos = [frame9, frame9].flatMap InputFrame.bytes ∧
       s.inPos ≤ s.src.bytes.length ∧ s.src.ending = .eos ∧
       s.cmds = List.replicate ([frame9, frame9].length + 1) { word := 0x03000000, ts := 0, data := [] }) :=
  ⟨fun f hf => by simp only [List.mem_cons, List.not_mem_nil, or_false, or_self] at hf; subst hf; exact ⟨⟨by decide, by decide⟩, by decide⟩,
    rfl, rfl, by decide, rfl, rfl⟩

theorem test_premises_ConstantStreamTimestamps :
    (∀ f ∈ [frame9, frame9], f.Ok ∧ specBlocks f.header = 1 ∧ specRate (specSfi f.header) = some 44100) ∧
    (let s := { attached (frame9.bytes ++ frame9.bytes) .eos with cmds := List.replicate 2 (bareCmd 0x03000000) }
     s.isHalted = false ∧ s.ts = 0 ∧ s.src.bytes.drop s.inPos = [frame9, frame9].flatMap InputFrame.bytes ++ [] ∧
       s.cmds = List.replicate [frame9, frame9].length { word := 0x03000000, ts := 0, data := [] }) :=
  ⟨fun f hf => by
      simp only [List.mem_cons, List.not_mem_nil, or_false, or_self] at hf
      subst hf
      exact ⟨⟨⟨by decide, by decide⟩, by decide⟩, by decide, by decide⟩,
    rfl, rfl, rfl, rfl⟩

theorem test_premises_OutputSizeLaw :
    let tags : List (TagType × Word × List Byte) := [(.audio, 23, [1, 2]), (.script, 0, [])]
    let s := { State.reset with
      cmds := encode (.wrhdr true false) :: tags.map (fun x => encode (tagInstr x.1 x.2.1 x.2.2)) }
    (∀ x ∈ tags, x.2.2.length < 2 ^ 24) ∧
      ∃ t : State, Host.Core.run Sys2Proof.core (tags.length + 1) s = .next t ∧ t.isHalted = false :=
  ⟨by decide, _, rfl, rfl⟩

theorem test_premises_ConvertWritesTheFile :
    (∀ g ∈ [frame9], g.Ok) ∧
    (let s := attached frame9.bytes .eos
     s.isHalted = false ∧ s.src.bytes.drop s.inPos = [frame9].flatMap InputFrame.bytes ∧ s.src.ending = .eos ∧
       s.sink.failAt = none) :=
  ⟨fun f hf => by simp only [List.mem_singleton] at hf; subst hf; exact ⟨⟨by decide, by decide⟩, by decide⟩, rfl, rfl, rfl, rfl⟩

theorem test_premises_ConvertOfEmptyInput :
    State.reset.isHalted = false ∧ State.reset.inPos = State.reset.src.bytes.length ∧ State.reset.src.ending = .eos ∧
    State.reset.sink.failAt = none := by decide

/-- R225 on an empty input: header, then a configuration tag of 15 bytes. -/
theorem test_convert_empty_input :
    shows (convert State.reset) (fun s => (s.outPos, s.status, s.resps.map Resp.code)) =
    some (28, 0x101, [.ok, .endOfStream, .ok, .endOfStream]) := by decide

theorem test_premises_ConversionEndsOneWay :
    (attached [] .ioerr).isHalted = false ∧ (attached [] .ioerr).inPos ≤ (attached [] .ioerr).src.bytes.length := by decide

end Sys2Proof.Tests
end

section
/-! SUPPORT. The framer's commands and the parser's registers (00_scope.md R18, 41_flv_framer.md R160): what a framer command
leaves alone, what it does not read, and how a step reaches the instruction it runs. -/

namespace Sys2Proof.Machine

open Host (Outcome)

/-! ### The step -/

/-- R194 for a legal command: the step is the instruction, on the port without the command. -/
theorem step_eq_exec {s : State} {c : Cmd} {rest : List Cmd} {i : Instr} (hc : s.cmds = c :: rest)
    (hi : decode c = .instr i) : step s = exec i { s with cmds := rest } := by
  simp only [step, takeCommand, hc, runCommand, hi]

/-- Settles O6: the command at the head of the port is taken, and its instruction runs. -/
theorem stepRunsDecodedInstruction : Obligations.StepRunsDecodedInstruction :=
  fun _ _ _ _ hc hi => step_eq_exec hc hi

/-! ### What the framer leaves alone -/

/-- The mask 0x0100 keeps STATUS.EOS and nothing else (R27). -/
theorem and_0x0100_eq_iff (st st' : BitVec 16) : st &&& 0x0100 = st' &&& 0x0100 ↔ statusEos st = statusEos st' := by
  have mask (x : BitVec 16) : x &&& 0x0100 = if statusEos x then 0x0100 else 0 :=
    BitVec.and_twoPow x 8
  rw [mask, mask]
  cases statusEos st <;> cases statusEos st' <;> decide

/-- The next state of a framer instruction is one of the framer's ends (R165, R170, R197). -/
theorem exec_framer_ends {i : Instr} {s t : State} (hf : isFramer i = true) (he : exec i s = .next t) :
    CommandEnds s .framer t := by
  have hu : unitOf i = .framer := if_pos hf
  exact hu ▸ exec_ends he

/-- Settles O30, by cases on the three ends of a framer command: HALTED, the whole write, the failed write. -/
theorem framerLeavesParserAlone : Obligations.FramerLeavesParserAlone := by
  intro i s t hf he
  rw [and_0x0100_eq_iff]
  cases exec_framer_ends hf he with
  | halted => simp
  | wrote => simp
  | writeFailed => simp

/-! ### What the framer does not read -/

/-- Only data that the length field can say has a meaning (R88). -/
theorem tagDataFits_of_writeTag_next {ty : TagType} {ts : Word} {data : List Byte} {s t : State}
    (h : writeTag ty ts data s = .next t) : tagDataFits data = true := by
  by_contra hd
  simp [writeTag, hd] at h

/-- Only instructions of the interface have a next state (R88). -/
theorem wellFormed_of_exec_next {i : Instr} {s t : State} (h : exec i s = .next t) : wellFormed i = true := by
  cases i with
  | wrhdr => rfl
  | asc => rfl
  | next => rfl
  | getts => rfl
  | tagA => exact tagDataFits_of_writeTag_next h
  | tagV => exact tagDataFits_of_writeTag_next h
  | tagS => exact tagDataFits_of_writeTag_next h

/-- A TAG command writes the tag of R103, unless the block is halted. -/
theorem writeTag_eq_emit {data : List Byte} (hd : tagDataFits data = true) (ty : TagType) (ts : Word) (s : State) :
    writeTag ty ts data s = s.unlessHalted fun u => .next (u.emit (specTag (Config.tagCode ty) ts data)) := by
  simp only [writeTag, if_pos hd, tagBytes_eq_spec]

/-- A framer command writes bytes that depend on the instruction alone, unless the block is halted (R66, R160). -/
theorem exec_framer_eq_emit {i : Instr} (hf : isFramer i = true) (hw : wellFormed i = true) (s : State) :
    exec i s = s.unlessHalted fun u => .next (u.emit (specEmits i)) := by
  cases i with
  | wrhdr a v => simp only [exec, execWrhdr, flvHeader_eq_spec, specEmits]
  | asc => cases hf
  | next => cases hf
  | getts => cases hf
  | tagA ts data => exact writeTag_eq_emit hw .audio ts s
  | tagV ts data => exact writeTag_eq_emit hw .video ts s
  | tagS ts data => exact writeTag_eq_emit hw .script ts s

/-- `s` with another TS, another cursor and another source: the parser's side of the block, but FRAMES. -/
def State.withInput (s : State) (ts : Word) (inPos : Nat) (src : Source) : State :=
  { s with ts := ts, inPos := inPos, src := src }

section WithInput

variable (s : State) (ts : Word) (inPos : Nat) (src : Source)

@[simp] theorem isHalted_withInput : (s.withInput ts inPos src).isHalted = s.isHalted := rfl

@[simp] theorem answerHalted_withInput :
    (s.withInput ts inPos src).answerHalted = s.answerHalted.withInput ts inPos src := rfl

/-- The sink decides how a write ends, and the parser's side has no part in it (R62, R160). -/
theorem outWrite_withInput (bs : List Byte) :
    (s.withInput ts inPos src).outWrite bs = ((s.outWrite bs).1, (s.outWrite bs).2.withInput ts inPos src) := by
  have room : (s.withInput ts inPos src).hasRoom bs.length = s.hasRoom bs.length := rfl
  unfold State.outWrite
  rw [room]
  split <;> rfl

/-- A framer command's write and its answer leave aside the parser's side (R160, R165). -/
theorem emit_withInput (bs : List Byte) :
    (s.withInput ts inPos src).emit bs = (s.emit bs).withInput ts inPos src := by
  unfold State.emit
  rw [outWrite_withInput]
  obtain ⟨whole, u⟩ := s.outWrite bs
  cases whole <;> rfl

end WithInput

/-- Settles O33: both runs emit the same bytes, and `emit` commutes with the change of the parser's side. -/
theorem framerDoesNotReadParser : Obligations.FramerDoesNotReadParser := by
  intro i s t ts inPos src hf he
  have runs := exec_framer_eq_emit hf (wellFormed_of_exec_next he)
  rw [runs] at he
  change exec i (s.withInput ts inPos src) = .next (t.withInput ts inPos src)
  rw [runs, unlessHalted_next]
  simp only [isHalted_withInput, answerHalted_withInput, emit_withInput]
  obtain ⟨hh, rfl⟩ | ⟨hh, hr⟩ := (unlessHalted_next s).mp he
  · exact .inl ⟨hh, rfl⟩
  · obtain rfl := Outcome.next.inj hr
    exact .inr ⟨hh, rfl⟩

end Sys2Proof.Machine
end

section
/-! SUPPORT. The control registers (10_state.md R27 to R31): the four ways in which a command and its answer leave STATUS and
ERR_FRAME, and the statements that follow by cases on them. A step is one command's end or a wait, so an invariant that every end
keeps is kept by every step. -/

namespace Sys2Proof.Machine

open Host (Outcome)

variable {s t : State} {r : Resp} {u : BlockUnit}

/-! ### Invariants of the machine -/

/-- An invariant that taking a command from the port and every end of a command keep is kept by every step (R194). -/
theorem step_keeps {P : State → Prop} (taken : ∀ s rest, P s → P { s with cmds := rest })
    (ended : ∀ s u t, CommandEnds s u t → P s → P t) (hp : P s) (he : step s = .next t) : P t := by
  obtain ⟨-, rfl⟩ | ⟨c, rest, u, -, hu⟩ := step_ends he
  · exact hp
  · exact ended _ u t hu (taken s rest hp)

/-! ### How a command leaves STATUS and ERR_FRAME -/

/-- The fields an error is raised with (R86, R191). -/
def ErrorName.fields : ErrorName → List FieldId
  | .readFailure => [.headerIo, .headerTruncated, .payloadIo, .payloadTruncated]
  | .malformedFrame => [.frameLength, .samplingFrequencyIndex]
  | .writeFailure => [.sink]
  | .illegalCommand => [.opcode, .reservedBits]

/-- The control registers of `t` and the answer `r` of a command that `s` took, by the answer's kind: HALTED (R197), OK (R28),
END_OF_STREAM (R29) and the errors (R195). -/
inductive ControlEnd (s t : State) (r : Resp) : Prop where
  | halted (halted : s.isHalted = true) (code : r.code = .halted) (status : t.status = s.status)
      (errFrame : t.errFrame = s.errFrame) (frames : t.frames = s.frames)
  | ok (running : s.isHalted = false) (code : r.code = .ok) (field : r.field = .none)
      (status : t.status = statusAnswered s.status .ok .none) (errFrame : t.errFrame = s.errFrame)
  | endOfStream (running : s.isHalted = false) (code : r.code = .endOfStream) (field : r.field = .none)
      (status : t.status = statusAnswered (statusWithEos s.status) .endOfStream .none) (errFrame : t.errFrame = s.errFrame)
  | error (running : s.isHalted = false) (e : ErrorName) (code : r.code = e.code)
      (field : r.field ∈ e.fields) (frame : r.frame = s.frames)
      (status : t.status = statusWithHalt (statusAnswered s.status e.code r.field)) (errFrame : t.errFrame = s.frames)
      (frames : t.frames = s.frames)

/-- Every end of a command delivers one answer and is one of the four kinds. -/
theorem CommandEnds.control (h : CommandEnds s u t) : ∃ r, t.resps = s.resps ++ [r] ∧ ControlEnd s t r := by
  cases h with
  | halted h => exact ⟨_, rfl, .halted h rfl rfl rfl rfl⟩
  | illegal h f hf =>
    exact ⟨_, rfl, .error h .illegalCommand rfl (by obtain rfl | rfl := hf <;> simp [ErrorName.fields]) rfl rfl rfl rfl⟩
  | endOfStream h => exact ⟨_, rfl, .endOfStream h rfl rfl rfl rfl⟩
  | headerShort h n hn f hf =>
    exact ⟨_, rfl, .error h .readFailure rfl (by obtain rfl | rfl := hf <;> simp [ErrorName.fields]) rfl rfl rfl rfl⟩
  | headerBad h n hn bs f hf =>
    exact ⟨_, rfl, .error h .malformedFrame rfl (by obtain rfl | rfl := hf <;> simp [ErrorName.fields]) rfl rfl rfl rfl⟩
  | blob h => exact ⟨_, rfl, .ok h rfl rfl rfl rfl⟩
  | payloadShort h n hn bs d f hf =>
    exact ⟨_, rfl, .error h .readFailure rfl (by obtain rfl | rfl := hf <;> simp [ErrorName.fields]) rfl rfl rfl rfl⟩
  | frame h => exact ⟨_, rfl, .ok h rfl rfl rfl rfl⟩
  | timestamp h => exact ⟨_, rfl, .ok h rfl rfl rfl rfl⟩
  | wrote h => exact ⟨_, rfl, .ok h rfl rfl rfl rfl⟩
  | writeFailed h => exact ⟨_, rfl, .error h .writeFailure rfl (.head _) rfl rfl rfl rfl⟩

/-- The port is no control register. -/
theorem ControlEnd.of_cmds {rest : List Cmd} (h : ControlEnd { s with cmds := rest } t r) : ControlEnd s t r := by
  cases h with
  | halted halted code status errFrame frames => exact .halted halted code status errFrame frames
  | ok running code field status errFrame => exact .ok running code field status errFrame
  | endOfStream running code field status errFrame => exact .endOfStream running code field status errFrame
  | error running e code field frame status errFrame frames =>
    exact .error running e code field frame status errFrame frames

/-- A step waits, or it delivers one answer of the four kinds (R84, R194). -/
theorem step_control (he : step s = .next t) : t = s ∨ ∃ r, t.resps = s.resps ++ [r] ∧ ControlEnd s t r := by
  obtain ⟨-, rfl⟩ | ⟨c, rest, u, -, hu⟩ := step_ends he
  · exact .inl rfl
  · obtain ⟨r, hr, hc⟩ := hu.control
    exact .inr ⟨r, hr, hc.of_cmds⟩

/-- A step that delivers the answer `r` ends in the way of that answer. -/
theorem step_control_of_resps (he : step s = .next t) (hr : t.resps = s.resps ++ [r]) : ControlEnd s t r := by
  obtain rfl | ⟨r', hr', hc⟩ := step_control he
  · simp at hr
  · obtain rfl : r' = r := by simpa [hr] using hr'.symm
    exact hc

/-! ### The registers of each kind -/

/-- The numbers of the fatal codes are 2 and above (R85, R196). -/
theorem two_le_errorName_bits (e : ErrorName) : 2 ≤ e.code.bits.toNat := by cases e <;> decide

/-- Each of the four fatal codes is an error's (R196). -/
theorem exists_errorName_of_mem {c : RespCode}
    (h : c ∈ [RespCode.readFailure, .malformedFrame, .writeFailure, .illegalCommand]) : ∃ e : ErrorName, c = e.code := by
  simp only [List.mem_cons, List.not_mem_nil, or_false] at h
  obtain rfl | rfl | rfl | rfl := h
  exacts [⟨.readFailure, rfl⟩, ⟨.malformedFrame, rfl⟩, ⟨.writeFailure, rfl⟩, ⟨.illegalCommand, rfl⟩]

/-- CODE and FIELD of an error are a pair of R86. -/
theorem errorName_pair_legal {e : ErrorName} {f : FieldId} (h : f ∈ e.fields) :
    (e.code.bits.toNat, f.bits.toNat) ∈ legalPairs := by
  revert f
  cases e <;> decide

/-- The four fatal codes are none of the codes that leave the block running or find it halted (R85). -/
theorem errorName_code_ne (e : ErrorName) : e.code ≠ .ok ∧ e.code ≠ .endOfStream ∧ e.code ≠ .halted := by
  cases e <;> decide

/-- HALT after a command: it was set, or the answer is an error (R30, R196). -/
theorem ControlEnd.isHalted_iff (h : ControlEnd s t r) :
    t.isHalted = true ↔ s.isHalted = true ∨ ∃ e : ErrorName, r.code = e.code := by
  cases h with
  | halted halted code status =>
    have halt : t.isHalted = true := (congrArg statusHalt status).trans halted
    simp [halt, halted]
  | ok running code field status =>
    simp only [State.isHalted, status, statusHalt_answered, code, iff_self_or]
    rintro ⟨e, he⟩
    exact absurd he.symm (errorName_code_ne e).1
  | endOfStream running code field status =>
    simp only [State.isHalted, status, statusHalt_answered, statusHalt_withEos, code, iff_self_or]
    rintro ⟨e, he⟩
    exact absurd he.symm (errorName_code_ne e).2.1
  | error running e code field frame status =>
    simp only [State.isHalted, status, statusHalt_withHalt, true_iff]
    exact .inr ⟨e, code⟩

/-- EOS after a command: it was set, or the answer is END_OF_STREAM (R29). -/
theorem ControlEnd.eos_iff (h : ControlEnd s t r) :
    statusEos t.status = true ↔ statusEos s.status = true ∨ r.code = .endOfStream := by
  cases h with
  | halted halted code status => simp [status, code]
  | ok running code field status => simp [status, code]
  | endOfStream running code field status => simp [status, code]
  | error running e code field frame status => simp [status, code, (errorName_code_ne e).2.1]

/-- An error records the frame, in its answer too (R31, R195). -/
theorem ControlEnd.error_errFrame (h : ControlEnd s t r) {e : ErrorName} (he : r.code = e.code) :
    s.isHalted = false ∧ r.frame = s.frames ∧ t.errFrame = s.frames := by
  obtain ⟨hok, heos, hhalted⟩ := errorName_code_ne e
  cases h with
  | halted halted code => exact absurd (he.symm.trans code) hhalted
  | ok running code => exact absurd (he.symm.trans code) hok
  | endOfStream running code => exact absurd (he.symm.trans code) heos
  | error running e' code field frame status errFrame => exact ⟨running, frame, errFrame⟩

/-- Only an error writes ERR_FRAME (R31). -/
theorem ControlEnd.errFrame_of_not_error (h : ControlEnd s t r) (he : ¬ ∃ e : ErrorName, r.code = e.code) :
    t.errFrame = s.errFrame := by
  cases h with
  | halted halted code status errFrame => exact errFrame
  | ok running code field status errFrame => exact errFrame
  | endOfStream running code field status errFrame => exact errFrame
  | error running e code => exact absurd ⟨e, code⟩ he

/-! ### STATUS and ERR_FRAME over one step -/

/-- Settles O35, from the two equivalences for HALT and EOS. -/
theorem haltAndEosAreSticky : Obligations.HaltAndEosAreSticky := by
  intro s t he
  obtain rfl | ⟨r, -, hc⟩ := step_control he
  · exact ⟨id, id⟩
  · exact ⟨fun h => hc.isHalted_iff.mpr (.inl h), fun h => hc.eos_iff.mpr (.inl h)⟩

/-- Settles O38. -/
theorem eosIsSetByEndOfStream : Obligations.EosIsSetByEndOfStream :=
  fun _ _ _ he hr => (step_control_of_resps he hr).eos_iff

/-- Settles O37, by the kind of the answer. -/
theorem statusRecordsTheAnswer : Obligations.StatusRecordsTheAnswer := by
  intro s t r he hr
  change (r.code ≠ .halted → statusCode t.status = r.code.bits ∧ statusField t.status = r.field.bits) ∧ _
  cases step_control_of_resps he hr with
  | halted halted code status => exact ⟨fun h => absurd code h, fun _ => status⟩
  | ok running code field status => simp [status, code, field]
  | endOfStream running code field status => simp [status, code, field]
  | error running e code field frame status => simp [status, code, (errorName_code_ne e).2.2]

/-- Settles O34: HALT goes from 0 to 1 in an error, and an error alone writes ERR_FRAME. -/
theorem errFrameRecordsTheFrame : Obligations.ErrFrameRecordsTheFrame := by
  refine ⟨fun s t he => ?_, fun _ _ => rfl⟩
  obtain rfl | ⟨r, hr, hc⟩ := step_control he
  · exact ⟨fun ⟨h0, h1⟩ => absurd (h0.symm.trans h1) Bool.false_ne_true, fun _ => rfl, fun r hr => by simp at hr⟩
  have only (r' : Resp) (h : t.resps = s.resps ++ [r']) : r' = r := by simpa [hr] using h.symm
  by_cases herr : ∃ e : ErrorName, r.code = e.code
  · obtain ⟨e, hcode⟩ := herr
    obtain ⟨running, frame, errFrame⟩ := hc.error_errFrame hcode
    refine ⟨fun _ => errFrame, fun h => absurd ⟨running, hc.isHalted_iff.mpr (.inr ⟨e, hcode⟩)⟩ h, fun r' h' _ => ?_⟩
    rw [only r' h', frame, errFrame]
  · have errFrame := hc.errFrame_of_not_error herr
    refine ⟨fun ⟨h0, h1⟩ => ?_, fun _ => errFrame, fun r' h' hm => ?_⟩
    · simp [hc.isHalted_iff, herr, h0] at h1
    · exact absurd (exists_errorName_of_mem (only r' h' ▸ hm)) herr

/-! ### The invariant of the control registers -/

/-- `ControlOk` by the fields of STATUS (R27 to R31). -/
theorem controlOk_iff : s.ControlOk ↔
    statusReserved s.status = 0 ∧ ((statusCode s.status).toNat, (statusField s.status).toNat) ∈ legalPairs ∧
      (s.isHalted = true ↔ 2 ≤ (statusCode s.status).toNat) ∧
      ((statusCode s.status).toNat = 1 → statusEos s.status = true) ∧
      s.errFrame = if s.isHalted then s.frames else 0 := by
  rw [statusCode_toNat, statusField_toNat, statusEos_iff, ← BitVec.toNat_inj, statusReserved_toNat]
  rfl

/-- A command keeps the control registers legal. -/
theorem ControlEnd.controlOk (h : ControlEnd s t r) (hs : s.ControlOk) : t.ControlOk := by
  rw [controlOk_iff] at hs ⊢
  obtain ⟨reserved, pair, fatal, eos, err⟩ := hs
  cases h with
  | halted halted code status errFrame frames =>
    have halt : t.isHalted = s.isHalted := congrArg statusHalt status
    rw [halt, status, errFrame, frames]
    exact ⟨reserved, pair, fatal, eos, err⟩
  | ok running code field status errFrame =>
    have halt : t.isHalted = false := by simpa [State.isHalted, status] using running
    simp [halt, status, errFrame, err, running, RespCode.bits, FieldId.bits, legalPairs]
  | endOfStream running code field status errFrame =>
    have halt : t.isHalted = false := by simpa [State.isHalted, status] using running
    simp [halt, status, errFrame, err, running, RespCode.bits, FieldId.bits, legalPairs]
  | error running e code field frame status errFrame frames =>
    have halt : t.isHalted = true := by simp [State.isHalted, status]
    have fatalCode := two_le_errorName_bits e
    simp only [halt, status, errFrame, frames, statusReserved_withHalt, statusEos_withHalt, statusCode_withHalt,
      statusField_withHalt, statusEos_answered, statusCode_answered, statusField_answered, if_true, true_iff]
    exact ⟨trivial, errorName_pair_legal field, fatalCode, fun h1 => by omega, trivial⟩

/-- Settles O42. -/
theorem stepKeepsControlOk : Obligations.StepKeepsControlOk := by
  intro s t hs he
  refine step_keeps (P := State.ControlOk) (fun _ _ h => h) (fun s u t hu hs => ?_) hs he
  obtain ⟨r, -, hc⟩ := hu.control
  exact hc.controlOk hs

/-! ### The count of frames -/

/-- A command adds its answer's frame, if the answer carries one, to FRAMES (R25, R100). -/
theorem CommandEnds.frames (h : CommandEnds s u t) :
    ∃ r, t.resps = s.resps ++ [r] ∧ t.frames = s.frames + BitVec.ofNat 32 ([r].countP Resp.isFrame) := by
  cases h with
  | halted => exact ⟨_, rfl, by simp [Resp.isFrame]⟩
  | illegal => exact ⟨_, rfl, by simp [Resp.isFrame]⟩
  | endOfStream => exact ⟨_, rfl, by simp [Resp.isFrame]⟩
  | headerShort => exact ⟨_, rfl, by simp [Resp.isFrame]⟩
  | headerBad => exact ⟨_, rfl, by simp [Resp.isFrame]⟩
  | blob => exact ⟨_, rfl, by simp [Resp.isFrame, ascBlob]⟩
  | payloadShort => exact ⟨_, rfl, by simp [Resp.isFrame, ErrorName.code]⟩
  | frame => exact ⟨_, rfl, by simp [Resp.isFrame, framePayload]⟩
  | timestamp => exact ⟨_, rfl, by simp [Resp.isFrame]⟩
  | wrote => exact ⟨_, rfl, by simp [Resp.isFrame]⟩
  | writeFailed => exact ⟨_, rfl, by simp [Resp.isFrame]⟩

/-- Settles O43. -/
theorem stepKeepsFramesCounted : Obligations.StepKeepsFramesCounted := by
  intro s t hs he
  refine step_keeps (P := State.FramesCounted) (fun _ _ h => h) (fun s u t hu hs => ?_) hs he
  obtain ⟨r, hr, hf⟩ := hu.frames
  unfold State.FramesCounted at hs ⊢
  rw [hf, hr, List.countP_append, BitVec.ofNat_add, hs]

end Sys2Proof.Machine
end

section
/-! SUPPORT. The two streams (20_memory.md R51 to R60): what every end of a command does to the source, the sink, the positions and
FRAME_BUF, what the parser's commands leave alone (R24, R40, R58), and the state after reset (R38). -/

namespace Sys2Proof.Machine

open Host (Outcome)

variable {s t : State} {u : BlockUnit}

/-! ### Positions and bytes -/

/-- The streams of `t` come from those of `s` by one command: the source is the same, the cursor moves forward (R21, R55), the sink
takes further bytes within its limit and OUT_POS counts them (R59, R60), and FRAME_BUF stays within its bound (R35). -/
structure StreamEnd (s t : State) : Prop where
  src : t.src = s.src
  cursor : s.Cursor t.inPos
  written : ∃ bs, t.sink = { s.sink with accepted := s.sink.accepted ++ bs } ∧ t.outPos = s.outPos + bs.length ∧
    ∀ limit, s.sink.failAt = some limit → s.outPos ≤ limit → t.outPos ≤ limit
  frameBuf : s.frameBuf.length ≤ Config.frameBufBytes → t.frameBuf.length ≤ Config.frameBufBytes

/-- A command that writes no output. -/
theorem StreamEnd.of_unwritten (src : t.src = s.src) (cursor : s.Cursor t.inPos) (sink : t.sink = s.sink)
    (outPos : t.outPos = s.outPos)
    (frameBuf : s.frameBuf.length ≤ Config.frameBufBytes → t.frameBuf.length ≤ Config.frameBufBytes) : StreamEnd s t :=
  ⟨src, cursor, ⟨[], by simpa using sink, by simpa using outPos, fun _ _ h => outPos ▸ h⟩, frameBuf⟩

/-- The payload of the longest frame fills FRAME_BUF (R35, R100). -/
theorem framePayload_length_le {raw : List Byte} (h : raw.length ≤ 8184) :
    (framePayload raw).length ≤ Config.frameBufBytes := by
  simp only [framePayload, Config.frameBufBytes, List.length_append, List.length_cons, List.length_nil]
  omega

/-- Every end of a command moves the streams in this way. -/
theorem CommandEnds.streams (h : CommandEnds s u t) : StreamEnd s t := by
  cases h with
  | halted => exact .of_unwritten rfl (cursor_self s) rfl rfl id
  | illegal => exact .of_unwritten rfl (cursor_self s) rfl rfl id
  | endOfStream h n hn => exact .of_unwritten rfl hn rfl rfl id
  | headerShort h n hn => exact .of_unwritten rfl hn rfl rfl id
  | headerBad h n hn => exact .of_unwritten rfl hn rfl rfl id
  | blob => exact .of_unwritten rfl (cursor_self s) rfl rfl id
  | payloadShort h n hn => exact .of_unwritten rfl hn rfl rfl id
  | frame h n hn bs d raw hr => exact .of_unwritten rfl hn rfl rfl fun _ => framePayload_length_le hr
  | timestamp => exact .of_unwritten rfl (cursor_self s) rfl rfl id
  | wrote h bs hb => exact ⟨rfl, cursor_self s, ⟨bs, rfl, rfl, hb⟩, id⟩
  | writeFailed h bs hb => exact ⟨rfl, cursor_self s, ⟨bs, rfl, rfl, hb⟩, id⟩

/-- A command keeps the streams and the positions in agreement. -/
theorem StreamEnd.streamsOk (h : StreamEnd s t) (hs : s.StreamsOk) : t.StreamsOk := by
  obtain ⟨counted, limited, inside, bounded⟩ := hs
  obtain ⟨bs, sink, outPos, room⟩ := h.written
  refine ⟨?_, fun n hn => ?_, ?_, h.frameBuf bounded⟩
  · simp [sink, outPos, counted]
  · rw [sink] at hn
    exact room n hn (limited n hn)
  · rw [h.src]
    exact (h.cursor inside).2

/-- Settles O41. -/
theorem stepKeepsStreamsOk : Obligations.StepKeepsStreamsOk := fun _ _ hs he =>
  step_keeps (P := State.StreamsOk) (fun _ _ h => h) (fun _ _ _ hu hs => hu.streams.streamsOk hs) hs he

/-- Settles O39: a step waits, or a command's end extends both lists and moves both positions forward. -/
theorem streamsOnlyGrow : Obligations.StreamsOnlyGrow := by
  intro s t inside he
  obtain ⟨-, rfl⟩ | ⟨c, rest, u, -, hu⟩ := step_ends he
  · exact ⟨List.prefix_rfl, List.prefix_rfl, le_rfl, le_rfl, rfl⟩
  · obtain ⟨src, cursor, ⟨bs, sink, outPos, -⟩, -⟩ := hu.streams
    obtain ⟨r, resps, -⟩ := hu.control
    exact ⟨sink ▸ List.prefix_append _ _, resps ▸ List.prefix_append _ _, (cursor inside).1,
      outPos ▸ Nat.le_add_right _ _, src⟩

/-! ### What the parser leaves alone -/

/-- The mask 0x0300 keeps STATUS.EOS and STATUS.HALT and nothing else (R27). -/
theorem and_0x0300_answered (st : BitVec 16) (c : RespCode) (f : FieldId) :
    statusAnswered st c f &&& 0x0300 = st &&& 0x0300 := by
  refine BitVec.eq_of_getLsbD_eq fun i hi => ?_
  interval_cases i <;> simp [statusAnswered, packStatus, statusHalt, statusEos]

/-- The next state of a parser instruction is one of the parser's ends. -/
theorem exec_parser_ends {i : Instr} (hp : isFramer i = false) (he : exec i s = .next t) : CommandEnds s .parser t := by
  have hu : unitOf i = .parser := by simp [unitOf, hp]
  exact hu ▸ exec_ends he

/-- No end of a parser command touches the output or the port, and ERR_FRAME changes in a halt alone (R31, R40, R58). -/
theorem CommandEnds.parser_leaves (h : CommandEnds s .parser t) :
    t.outPos = s.outPos ∧ t.sink = s.sink ∧ t.src = s.src ∧ t.cmds = s.cmds ∧
      (t.isHalted = false → t.errFrame = s.errFrame) := by
  cases h with
  | halted => exact ⟨rfl, rfl, rfl, rfl, fun _ => rfl⟩
  | endOfStream => exact ⟨rfl, rfl, rfl, rfl, fun _ => rfl⟩
  | headerShort => exact ⟨rfl, rfl, rfl, rfl, by simp⟩
  | headerBad => exact ⟨rfl, rfl, rfl, rfl, by simp⟩
  | blob => exact ⟨rfl, rfl, rfl, rfl, fun _ => rfl⟩
  | payloadShort => exact ⟨rfl, rfl, rfl, rfl, by simp⟩
  | frame => exact ⟨rfl, rfl, rfl, rfl, fun _ => rfl⟩
  | timestamp => exact ⟨rfl, rfl, rfl, rfl, fun _ => rfl⟩

/-- ASC leaves NEXT's registers alone (R123, R124). -/
theorem execAsc_leaves (he : execAsc s = .next t) :
    t.ts = s.ts ∧ t.frames = s.frames ∧ t.inPos = s.inPos ∧ t.frameBuf = s.frameBuf := by
  obtain ⟨-, rfl⟩ | ⟨-, hr⟩ := (unlessHalted_next s).mp he
  · exact ⟨rfl, rfl, rfl, rfl⟩
  split at hr
  · obtain rfl := Outcome.next.inj hr
    obtain h | h | h := endShortHeader_cases s _ _ <;> rw [h] <;> exact ⟨rfl, rfl, rfl, rfl⟩
  · obtain rfl := Outcome.next.inj hr
    obtain h | h := answerAsc_cases (s.writeHdr _) (headerFields _) <;> rw [h] <;> exact ⟨rfl, rfl, rfl, rfl⟩

/-- GETTS writes STATUS.CODE and STATUS.FIELD only, besides its answer (R140). -/
theorem execGetts_leaves (he : execGetts s = .next t) :
    (t.ts = s.ts ∧ t.frames = s.frames ∧ t.inPos = s.inPos ∧ t.frameBuf = s.frameBuf) ∧
      t.hdr = s.hdr ∧ t.errFrame = s.errFrame ∧ t.status &&& 0x0300 = s.status &&& 0x0300 := by
  obtain ⟨-, rfl⟩ | ⟨-, hr⟩ := (unlessHalted_next s).mp he
  · exact ⟨⟨rfl, rfl, rfl, rfl⟩, rfl, rfl, rfl⟩
  · obtain rfl := Outcome.next.inj hr
    exact ⟨⟨rfl, rfl, rfl, rfl⟩, rfl, rfl, and_0x0300_answered _ _ _⟩

/-- Settles O31, by the instruction. -/
theorem parserWritesOnlyItsOwn : Obligations.ParserWritesOnlyItsOwn := by
  intro i s t hp he
  obtain ⟨outPos, sink, src, cmds, errFrame⟩ := (exec_parser_ends hp he).parser_leaves
  refine ⟨outPos, sink, src, cmds, errFrame, ?_⟩
  cases i with
  | wrhdr => cases hp
  | asc => exact ⟨fun _ => execAsc_leaves he, by simp⟩
  | next => exact ⟨by simp, by simp⟩
  | getts => exact ⟨fun _ => (execGetts_leaves he).1, fun _ => (execGetts_leaves he).2⟩
  | tagA => cases hp
  | tagV => cases hp
  | tagS => cases hp

/-! ### Reset -/

/-- STATUS = 0 says that the block runs (R27, R30). -/
theorem isHalted_of_status_zero (status : s.status = 0) : s.isHalted = false := by
  simp [State.isHalted, status, statusHalt]

/-- Settles O40: the values of R38 as `State.resetWith` gives them. -/
theorem resetValues : Obligations.ResetValues :=
  fun _ _ => ⟨rfl, rfl, rfl, rfl, rfl, rfl, rfl, rfl, isHalted_of_status_zero rfl⟩

/-- STATUS = 0 and ERR_FRAME = 0 are legal control registers (R38). -/
theorem controlOk_of_zero (status : s.status = 0) (errFrame : s.errFrame = 0) : s.ControlOk := by
  simp [State.ControlOk, status, isHalted_of_status_zero status, errFrame, legalPairs]

/-- Settles O44. -/
theorem resetMeetsInvariants : Obligations.ResetMeetsInvariants := fun _ _ =>
  ⟨⟨rfl, fun _ _ => Nat.zero_le _, Nat.zero_le _, Nat.zero_le _⟩, controlOk_of_zero rfl rfl, rfl⟩

end Sys2Proof.Machine
end

section
/-! SUPPORT. Reads that come back short (20_memory.md R55, R57): the header read of ASC and NEXT (40_adts_parser.md R121) and the
payload read of NEXT (R137), up to the state they leave. -/

namespace Sys2Proof.Machine

open Host (Outcome)

variable {s : State}

/-- ASC with fewer than 7 bytes left looks at them and consumes none (R57, R123). -/
theorem exec_asc_short (running : s.isHalted = false) {out : List Byte} (hd : s.src.bytes.drop s.inPos = out)
    (short : out.length < 7) : exec .asc s = .next (s.endShortHeader out s.src.ending) := by
  have peek : s.peek Config.adtsHeaderLen = .short out s.src.ending := by
    rw [peek_eq_readExact, readExact_short s hd short]
  simp only [exec, execAsc, unlessHalted_running s running, peek]

/-- NEXT with fewer than 7 bytes left consumes them (R55, R130). -/
theorem exec_next_short (running : s.isHalted = false) {out : List Byte} (hd : s.src.bytes.drop s.inPos = out)
    (short : out.length < 7) :
    exec .next s = .next ({ s with inPos := s.src.bytes.length }.endShortHeader out s.src.ending) := by
  have read := readExact_short s (k := Config.adtsHeaderLen) hd short
  simp only [exec, execNext, unlessHalted_running s running, read]

/-- NEXT on a header consumes its 7 bytes and goes on with its fields (R55, R130). -/
theorem exec_next_header (running : s.isHalted = false) {bs later : List Byte} (hb : s.src.bytes.drop s.inPos = bs ++ later)
    (seven : bs.length = 7) :
    let read := { s with inPos := s.inPos + 7 }.writeHdr bs
    exec .next s = .next (read.answerNext (headerFields read.hdr)).releaseHdr := by
  have read := readExact_enough s (k := Config.adtsHeaderLen) hb seven
  simp only [exec, execNext, unlessHalted_running s running, read]

/-- END_OF_STREAM at a clean end of the stream, as the whole next state (R29, R121). -/
theorem respondEos_eq (s : State) : s.respondEos = { s with
    status := (s.status &&& 0x0200) ||| 0x0101
    resps := s.resps ++ [{ code := .endOfStream, field := .none, frame := s.frames, ts := 0, data := [] }] } := by
  rw [← statusAnswered_eos]
  rfl

/-- An error, as the whole next state (R195). -/
theorem raise_eq (s : State) (e : ErrorName) (f : FieldId) (out : List Byte) : s.raise e f out = { s with
    status := (s.status &&& 0x0100) ||| (0x0200 ||| (f.bits.setWidth 16 <<< 4) ||| e.code.bits.setWidth 16)
    errFrame := s.frames
    resps := s.resps ++ [{ code := e.code, field := f, frame := s.frames, ts := 0, data := out }] } := by
  rw [← statusRaised_eq_or]
  rfl

/-- Settles O19, by the source's ending and the bytes that are left. -/
theorem shortHeaderClassified : Obligations.ShortHeaderClassified := by
  intro s running inside few
  have short : (s.src.bytes.drop s.inPos).length < 7 := by
    rw [List.length_drop]
    omega
  rw [exec_asc_short running rfl short, exec_next_short running rfl short]
  refine ⟨fun atEnd eos => ?_, fun ioerr => ?_, fun before eos => ?_⟩
  · rw [List.drop_eq_nil_of_le atEnd.ge, eos, ← atEnd]
    exact ⟨congrArg _ (respondEos_eq s), congrArg _ (respondEos_eq s)⟩
  · rw [ioerr]
    exact ⟨congrArg _ (raise_eq s _ _ _), congrArg _ (raise_eq { s with inPos := _ } _ _ _)⟩
  · obtain ⟨b, bs, left⟩ := List.exists_cons_of_length_pos (l := s.src.bytes.drop s.inPos) (by rw [List.length_drop]; omega)
    rw [left, eos]
    exact ⟨congrArg _ (raise_eq s _ _ _), congrArg _ (raise_eq { s with inPos := _ } _ _ _)⟩

/-- A header that is not malformed: TS takes the frame's duration, and the payload is read (R133, R134). -/
theorem answerNext_of_headerOk (s : State) {hd : AdtsHeader} (ok : specHeaderOk hd) :
    s.answerNext (headerFields hd) = (s.advanceTs (specDuration hd)).readPayload (specFrameLength hd - 7) := by
  obtain ⟨long, index⟩ := ok
  obtain ⟨rate, hr⟩ := (specRate_isSome_iff _).mpr index
  simp only [State.answerNext, fl_toNat, sampleRate_eq_spec, hr, Config.adtsHeaderLen, if_neg (Nat.not_lt.mpr long),
    frameDuration_eq_spec hd hr]

/-- A payload read that comes back short fails with the bytes it got (R137). -/
theorem readPayload_short (s : State) {out : List Byte} {len : Nat} (hd : s.src.bytes.drop s.inPos = out)
    (short : out.length < len) :
    s.readPayload len =
      { s with inPos := s.src.bytes.length }.raise .readFailure (payloadField s.src.ending) out := by
  simp only [State.readPayload, readExact_short s hd short]

/-- Settles O22: the header is accepted, TS advances, and the payload read is short. -/
theorem nextPayloadShort : Obligations.NextPayloadShort := by
  intro s hd out running hb ok short
  have left : s.src.bytes.drop (s.inPos + 7) = out := by
    rw [← List.drop_drop, hb]
    exact List.drop_left' (headerBytes_length hd)
  rw [exec_next_header running hb (headerBytes_length hd), writeHdr_headerBytes, answerNext_of_headerOk _ ok,
    readPayload_short _ left (by omega), raise_eq]
  refine ⟨Config.hdrBetween s.unspec, s.unspec + 1, congrArg _ ?_⟩
  simp only [State.advanceTs_src, State.writeHdr_src]
  cases s.src.ending <;> rfl

end Sys2Proof.Machine
end

section
/-! SUPPORT. The hidden buffers (10_state.md R34, R35, R38): a command that starts from other contents of HDR and FRAME_BUF ends in
the same state but for them, since HDR is written before its fields are computed and nothing reads FRAME_BUF. -/

namespace Sys2Proof.Machine

open Host (Outcome)

/-- `v` is `s` but for what HDR and FRAME_BUF hold. -/
def SameButHidden (s v : State) : Prop := ∃ h b, v = { s with hdr := h, frameBuf := b }

namespace SameButHidden

variable {s v : State}

/-! ### The shared operations -/

theorem respondEos (h : SameButHidden s v) : SameButHidden s.respondEos v.respondEos := by
  obtain ⟨hd, b, rfl⟩ := h
  exact ⟨hd, b, rfl⟩

theorem raise (h : SameButHidden s v) (e : ErrorName) (f : FieldId) (out : List Byte) :
    SameButHidden (s.raise e f out) (v.raise e f out) := by
  obtain ⟨hd, b, rfl⟩ := h
  exact ⟨hd, b, rfl⟩

theorem answerHalted (h : SameButHidden s v) : SameButHidden s.answerHalted v.answerHalted := by
  obtain ⟨hd, b, rfl⟩ := h
  exact ⟨hd, b, rfl⟩

theorem advanceTs (h : SameButHidden s v) (d : Nat) : SameButHidden (s.advanceTs d) (v.advanceTs d) := by
  obtain ⟨hd, b, rfl⟩ := h
  exact ⟨hd, b, rfl⟩

theorem returnFrame (h : SameButHidden s v) (raw : List Byte) : SameButHidden (s.returnFrame raw) (v.returnFrame raw) := by
  obtain ⟨hd, b, rfl⟩ := h
  exact ⟨hd, framePayload raw, rfl⟩

theorem releaseHdr (h : SameButHidden s v) : SameButHidden s.releaseHdr v.releaseHdr := by
  obtain ⟨hd, b, rfl⟩ := h
  exact ⟨Config.hdrBetween s.unspec, b, rfl⟩

/-- After HDR was written it holds the same in both (R34). -/
theorem writeHdr (h : SameButHidden s v) (bs : List Byte) :
    SameButHidden (s.writeHdr bs) (v.writeHdr bs) ∧ (v.writeHdr bs).hdr = (s.writeHdr bs).hdr := by
  obtain ⟨hd, b, rfl⟩ := h
  exact ⟨⟨(s.writeHdr bs).hdr, b, rfl⟩, rfl⟩

theorem isHalted (h : SameButHidden s v) : v.isHalted = s.isHalted := by
  obtain ⟨hd, b, rfl⟩ := h
  rfl

/-! ### The ports -/

theorem peek (h : SameButHidden s v) (k : Nat) : v.peek k = s.peek k := by
  obtain ⟨hd, b, rfl⟩ := h
  rfl

theorem readExact (h : SameButHidden s v) (k : Nat) :
    ∃ r s' v', s.readExact k = (r, s') ∧ v.readExact k = (r, v') ∧ SameButHidden s' v' := by
  obtain ⟨hd, b, rfl⟩ := h
  have left : State.remaining { s with hdr := hd, frameBuf := b } = s.remaining := rfl
  unfold State.readExact
  rw [left]
  split
  · exact ⟨_, _, _, rfl, rfl, hd, b, rfl⟩
  · exact ⟨_, _, _, rfl, rfl, hd, b, rfl⟩

theorem outWrite (h : SameButHidden s v) (bs : List Byte) :
    ∃ whole s' v', s.outWrite bs = (whole, s') ∧ v.outWrite bs = (whole, v') ∧ SameButHidden s' v' := by
  obtain ⟨hd, b, rfl⟩ := h
  have room : State.hasRoom { s with hdr := hd, frameBuf := b } bs.length = s.hasRoom bs.length := rfl
  unfold State.outWrite
  rw [room]
  split
  · exact ⟨_, _, _, rfl, rfl, hd, b, rfl⟩
  · exact ⟨_, _, _, rfl, rfl, hd, b, rfl⟩

theorem emit (h : SameButHidden s v) (bs : List Byte) : SameButHidden (s.emit bs) (v.emit bs) := by
  obtain ⟨whole, s', v', hs, hv, hd, b, rfl⟩ := h.outWrite bs
  unfold State.emit
  rw [hs, hv]
  cases whole with
  | true => exact ⟨hd, b, rfl⟩
  | false => exact ⟨hd, b, rfl⟩

/-! ### The commands -/

theorem endShortHeader (h : SameButHidden s v) (out : List Byte) (e : Ending) :
    SameButHidden (s.endShortHeader out e) (v.endShortHeader out e) := by
  cases e with
  | ioerr => exact h.raise _ _ _
  | eos =>
    cases out with
    | nil => exact h.respondEos
    | cons => exact h.raise _ _ _

theorem answerAsc (h : SameButHidden s v) (f : HeaderFields) : SameButHidden (s.answerAsc f) (v.answerAsc f) := by
  obtain ⟨hd, b, rfl⟩ := h
  unfold State.answerAsc
  split
  · exact ⟨hd, b, rfl⟩
  · exact ⟨hd, b, rfl⟩

theorem readPayload (h : SameButHidden s v) (len : Nat) : SameButHidden (s.readPayload len) (v.readPayload len) := by
  obtain ⟨r, s', v', hs, hv, after⟩ := h.readExact len
  unfold State.readPayload
  rw [hs, hv]
  cases r with
  | ok raw => exact after.returnFrame raw
  | short out e => exact after.raise _ _ _

theorem answerNext (h : SameButHidden s v) (f : HeaderFields) : SameButHidden (s.answerNext f) (v.answerNext f) := by
  unfold State.answerNext
  split
  · exact h.raise _ _ _
  · split
    · exact h.raise _ _ _
    · exact (h.advanceTs _).readPayload _

/-- A command agrees in both if it does while the block runs: the HALT check reads neither buffer (R194). -/
theorem unlessHalted (h : SameButHidden s v) {run : State → Outcome State Fault Refusal}
    (ran : ∃ t w, run s = .next t ∧ run v = .next w ∧ SameButHidden t w) :
    ∃ t w, s.unlessHalted run = .next t ∧ v.unlessHalted run = .next w ∧ SameButHidden t w := by
  unfold State.unlessHalted
  rw [h.isHalted]
  split
  · exact ⟨_, _, rfl, rfl, h.answerHalted⟩
  · exact ran

theorem asc (h : SameButHidden s v) :
    ∃ t w, execAsc s = .next t ∧ execAsc v = .next w ∧ SameButHidden t w := by
  refine h.unlessHalted ?_
  simp only [h.peek]
  cases s.peek Config.adtsHeaderLen with
  | short out e => exact ⟨_, _, rfl, rfl, h.endShortHeader out e⟩
  | ok bs =>
    obtain ⟨after, hdr⟩ := h.writeHdr bs
    exact ⟨_, _, rfl, rfl, hdr ▸ (after.answerAsc _).releaseHdr⟩

theorem next (h : SameButHidden s v) :
    ∃ t w, execNext s = .next t ∧ execNext v = .next w ∧ SameButHidden t w := by
  refine h.unlessHalted ?_
  obtain ⟨r, s', v', hs, hv, after⟩ := h.readExact Config.adtsHeaderLen
  rw [hs, hv]
  cases r with
  | short out e => exact ⟨_, _, rfl, rfl, after.endShortHeader out e⟩
  | ok bs =>
    obtain ⟨written, hdr⟩ := after.writeHdr bs
    exact ⟨_, _, rfl, rfl, hdr ▸ (written.answerNext _).releaseHdr⟩

theorem getts (h : SameButHidden s v) :
    ∃ t w, execGetts s = .next t ∧ execGetts v = .next w ∧ SameButHidden t w := by
  refine h.unlessHalted ⟨_, _, rfl, rfl, ?_⟩
  obtain ⟨hd, b, rfl⟩ := h
  exact ⟨hd, b, rfl⟩

theorem framer (h : SameButHidden s v) {i : Instr} (hf : isFramer i = true) (hw : wellFormed i = true) :
    ∃ t w, exec i s = .next t ∧ exec i v = .next w ∧ SameButHidden t w := by
  rw [exec_framer_eq_emit hf hw, exec_framer_eq_emit hf hw]
  exact h.unlessHalted ⟨_, _, rfl, rfl, h.emit _⟩

/-- Every instruction of the interface has a next state, and the hidden buffers it starts from show in them alone (R38). -/
theorem instr (h : SameButHidden s v) {i : Instr} (hw : wellFormed i = true) :
    ∃ t w, exec i s = .next t ∧ exec i v = .next w ∧ SameButHidden t w := by
  cases i with
  | wrhdr => exact h.framer rfl hw
  | asc => exact h.asc
  | next => exact h.next
  | getts => exact h.getts
  | tagA => exact h.framer rfl hw
  | tagV => exact h.framer rfl hw
  | tagS => exact h.framer rfl hw

end SameButHidden

/-- Every instruction of the interface has a next state, whatever the ports hold (R54; log 13). -/
theorem exists_exec_next {i : Instr} (hw : wellFormed i = true) (s : State) : ∃ t, exec i s = .next t := by
  have same : SameButHidden s s := ⟨s.hdr, s.frameBuf, rfl⟩
  obtain ⟨t, -, he, -, -⟩ := same.instr hw
  exact ⟨t, he⟩

/-- Settles O32. -/
theorem hiddenBuffersAreNotRead : Obligations.HiddenBuffersAreNotRead := by
  intro i s t h b he
  have same : SameButHidden s { s with hdr := h, frameBuf := b } := ⟨h, b, rfl⟩
  obtain ⟨t', w, hs, hv, h', b', rfl⟩ := same.instr (wellFormed_of_exec_next he)
  obtain rfl : t' = t := Outcome.next.inj (hs.symm.trans he)
  exact ⟨h', b', hv⟩

end Sys2Proof.Machine
end

section
/-! SUPPORT. The host's conversion (70_reset_and_hazards.md R225, R226): what one issued command can answer a running block's host,
and how the host's sequences of commands end. -/

namespace Sys2Proof

/-- The decoder gives back a TAG from its record (R83, R88). -/
theorem decode_tagCmd {op : BitVec 8} {ty : TagType} (ts : Word) {data : List Byte}
    (ho : ∀ arg, decodeWord (packWord op arg) = .tag ty arg) (hd : tagDataFits data = true) :
    decode (tagCmd op ts data) = .instr (tagInstr ty ts data) := by
  have hl : data.length % 2 ^ 24 = data.length := Nat.mod_eq_of_lt ((tagDataFits_iff data).mp hd)
  simp only [decode, tagCmd, ho, BitVec.toNat_ofNat, hl, if_true]

/-- The decoder gives back every instruction of the interface from its record (R82, R83, R87, R88). -/
theorem decode_encode {i : Instr} (hw : wellFormed i = true) : decode (encode i) = .instr i := by
  cases i with
  | wrhdr a v => cases a <;> cases v <;> decide
  | asc => decide
  | next => decide
  | getts => decide
  | tagA ts data => exact decode_tagCmd (ty := .audio) ts (fun arg => by simp [decodeWord]) hw
  | tagV ts data => exact decode_tagCmd (ty := .video) ts (fun arg => by simp [decodeWord]) hw
  | tagS ts data => exact decode_tagCmd (ty := .script) ts (fun arg => by simp [decodeWord]) hw

end Sys2Proof

namespace Sys2Proof.Machine

open Host (Outcome)

variable {s t : State} {r : Resp} {u : BlockUnit}

/-! ### One issued command -/

/-- An answer that is no error carries at most what FRAME_BUF holds (R35, R84). -/
theorem CommandEnds.answer_data (h : CommandEnds s u t) :
    ∃ r, t.resps = s.resps ++ [r] ∧ (r.code.fatal = false → r.data.length ≤ Config.frameBufBytes) := by
  cases h with
  | halted => exact ⟨_, rfl, fun _ => Nat.zero_le _⟩
  | illegal => exact ⟨_, rfl, fun _ => Nat.zero_le _⟩
  | endOfStream => exact ⟨_, rfl, fun _ => Nat.zero_le _⟩
  | headerShort => exact ⟨_, rfl, fun _ => Nat.zero_le _⟩
  | headerBad => exact ⟨_, rfl, fun _ => Nat.zero_le _⟩
  | blob => exact ⟨_, rfl, fun _ => by simp [ascBlob, Config.frameBufBytes]⟩
  | payloadShort => exact ⟨_, rfl, fun h => by cases h⟩
  | frame h n hn bs d raw hr => exact ⟨_, rfl, fun _ => framePayload_length_le hr⟩
  | timestamp => exact ⟨_, rfl, fun _ => Nat.zero_le _⟩
  | wrote => exact ⟨_, rfl, fun _ => Nat.zero_le _⟩
  | writeFailed => exact ⟨_, rfl, fun _ => Nat.zero_le _⟩

/-- The block runs and its cursor is inside the input: what a conversion needs to go on. -/
structure State.Ready (s : State) : Prop where
  running : s.isHalted = false
  inside : s.inPos ≤ s.src.bytes.length

/-- The block answered the instruction `i` with `r`, which is no error, and is ready for the next command. -/
structure Answered (i : Instr) (s : State) (r : Resp) (t : State) : Prop where
  exec : exec i s = .next t
  resps : t.resps = s.resps ++ [r]
  ready : t.Ready
  src : t.src = s.src
  forward : s.inPos ≤ t.inPos
  data : r.data.length ≤ Config.frameBufBytes

/-- The last answer `r` ends a conversion (R226): an error halted the block, or the stream ended and STATUS.EOS says so. -/
def Stopped (r : Resp) (t : State) : Prop :=
  t.isHalted = true ∧ r.code.fatal = true ∨ t.isHalted = false ∧ r.code = .endOfStream ∧ statusEos t.status = true

/-- What the host of a ready block gets from one command: OK, END_OF_STREAM, or an error that halted the block (R196). -/
theorem issue_answers (hs : s.Ready) {i : Instr} (hw : wellFormed i = true) :
    ∃ t r, issue i s = .next t ∧ t.lastResp = some r ∧
      (r.code = .ok ∧ Answered i s r t ∨ r.code = .endOfStream ∧ Stopped r t ∧ Answered i s r t ∨
        r.code.fatal = true ∧ Stopped r t) := by
  obtain ⟨t, he⟩ := exists_exec_next hw s
  have ends := exec_ends he
  obtain ⟨r, hr, hc⟩ := ends.control
  obtain ⟨r', hr', hd⟩ := ends.answer_data
  obtain rfl : r' = r := by simpa [hr] using hr'.symm
  have answered (code : r'.code.fatal = false) (halt : t.isHalted = false) : Answered i s r' t :=
    have cursor := ends.streams.cursor hs.inside
    ⟨he, hr, ⟨halt, ends.streams.src ▸ cursor.2⟩, ends.streams.src, cursor.1, hd code⟩
  refine ⟨t, r', (issue_eq_exec (decode_encode hw)).trans he, lastResp_eq hr, ?_⟩
  cases hc with
  | halted halted => exact absurd (hs.running.symm.trans halted) Bool.false_ne_true
  | ok running code field status =>
    have halt : t.isHalted = false := by simpa [State.isHalted, status] using running
    exact .inl ⟨code, answered (by rw [code]; rfl) halt⟩
  | endOfStream running code field status =>
    have halt : t.isHalted = false := by simpa [State.isHalted, status] using running
    exact .inr (.inl ⟨code, .inr ⟨halt, code, by simp [status]⟩, answered (by rw [code]; rfl) halt⟩)
  | error running e code field frame status =>
    have fatal : r'.code.fatal = true := code ▸ errorName_code_fatal e
    exact .inr (.inr ⟨fatal, .inl ⟨by simp [State.isHalted, status], fatal⟩⟩)

/-- After its header NEXT moves the cursor forward only (R21, R137). -/
theorem answerNext_forward (running : s.isHalted = false) (inside : s.inPos ≤ s.src.bytes.length) (bs : List Byte)
    (f : HeaderFields) : s.inPos ≤ ((s.writeHdr bs).answerNext f).releaseHdr.inPos :=
  ((answerNext_ends running (cursor_self s) bs f).streams.cursor inside).1

/-- A NEXT answered OK has consumed a header (R130). -/
theorem Answered.next_advances (h : Answered .next s r t) (running : s.isHalted = false) (code : r.code = .ok) :
    s.inPos < t.inPos := by
  obtain ⟨he, hr, -, -, -, -⟩ := h
  by_cases short : (s.src.bytes.drop s.inPos).length < 7
  · rw [exec_next_short running rfl short] at he
    obtain rfl := Outcome.next.inj he
    obtain h | h | h := endShortHeader_cases { s with inPos := s.src.bytes.length } (s.src.bytes.drop s.inPos) s.src.ending <;>
      · rw [h] at hr
        obtain rfl := by simpa using hr
        cases code
  · have seven : ((s.src.bytes.drop s.inPos).take 7).length = 7 := by
      rw [List.length_take]
      omega
    rw [exec_next_header running (List.take_append_drop 7 _).symm seven] at he
    obtain rfl := Outcome.next.inj he
    have inside : s.inPos + 7 ≤ s.src.bytes.length := by
      rw [List.length_drop] at short
      omega
    calc s.inPos
      _ < s.inPos + 7 := Nat.lt_add_of_pos_right (by decide)
      _ ≤ _ := answerNext_forward (s := { s with inPos := s.inPos + 7 }) running inside _ _

/-! ### The host's sequences of commands -/

/-- The host's commands complete. Their last answer is OK and `P` holds of it and of the state, or it ends the conversion. -/
def RunsTo (o : Outcome State Fault Refusal) (P : Resp → State → Prop) : Prop :=
  ∃ t r, o = .next t ∧ t.lastResp = some r ∧ (r.code = .ok ∧ P r t ∨ Stopped r t)

variable {o : Outcome State Fault Refusal} {P Q : Resp → State → Prop}

theorem RunsTo.mono (h : RunsTo o P) (hpq : ∀ r t, r.code = .ok → P r t → Q r t) : RunsTo o Q := by
  obtain ⟨t, r, ho, hl, ⟨hc, hp⟩ | hstop⟩ := h
  · exact ⟨t, r, ho, hl, .inl ⟨hc, hpq r t hc hp⟩⟩
  · exact ⟨t, r, ho, hl, .inr hstop⟩

/-- An answer that ends a conversion is not OK. -/
theorem Stopped.code_ne_ok (h : Stopped r t) : r.code ≠ .ok := by
  rintro hc
  obtain ⟨-, hf⟩ | ⟨-, he, -⟩ := h
  · rw [hc] at hf
    cases hf
  · rw [hc] at he
    cases he

/-- The host goes on after OK, and stops where the conversion has ended (R90). -/
theorem RunsTo.onAnswer (h : RunsTo o P) {next : Resp → State → Outcome State Fault Refusal}
    (hn : ∀ r t, r.code = .ok → P r t → RunsTo (next r t) Q) : RunsTo (onAnswer [.ok] o next) Q := by
  obtain ⟨t, r, ho, hl, ⟨hc, hp⟩ | hstop⟩ := h
  · rw [onAnswer_goOn ho hl (List.mem_singleton.mpr hc)]
    exact hn r t hc hp
  · rw [onAnswer_stop ho hl (by simpa using hstop.code_ne_ok)]
    exact ⟨t, r, rfl, hl, .inr hstop⟩

/-- One command of a ready block. -/
theorem issue_runsTo (hs : s.Ready) {i : Instr} (hw : wellFormed i = true) : RunsTo (issue i s) (Answered i s) := by
  obtain ⟨t, r, ho, hl, ok | ⟨-, hstop, -⟩ | ⟨-, hstop⟩⟩ := issue_answers hs hw
  · exact ⟨t, r, ho, hl, .inl ok⟩
  · exact ⟨t, r, ho, hl, .inr hstop⟩
  · exact ⟨t, r, ho, hl, .inr hstop⟩

/-- An answer's data fits a TAG (R88). -/
theorem Answered.fits {i : Instr} (h : Answered i s r t) (ts : Word) : wellFormed (.tagA ts r.data) = true :=
  (tagDataFits_iff _).mpr (h.data.trans_lt (by decide))

/-- The configuration tag of CONVERT follows an ASC answered OK or END_OF_STREAM (R90, R225). -/
theorem configTag_runsTo (hs : s.Ready) : RunsTo (configTag [.ok, .endOfStream] s) fun _ t => t.Ready := by
  have tag {r t} (h : Answered .asc s r t) : RunsTo (issue (.tagA 0 r.data) t) fun _ v => v.Ready :=
    (issue_runsTo h.ready (h.fits 0)).mono fun _ _ _ answered => answered.ready
  obtain ⟨t, r, ho, hl, ⟨code, answered⟩ | ⟨code, -, answered⟩ | ⟨fatal, hstop⟩⟩ := issue_answers hs (i := .asc) rfl
  · rw [configTag, onAnswer_goOn ho hl (by simp [code])]
    exact tag answered
  · rw [configTag, onAnswer_goOn ho hl (by simp [code])]
    exact tag answered
  · have stop : r.code ∉ [RespCode.ok, .endOfStream] := by
      intro hm
      simp only [List.mem_cons, List.not_mem_nil, or_false] at hm
      obtain h | h := hm <;> rw [h] at fatal <;> cases fatal
    rw [configTag, onAnswer_stop ho hl stop]
    exact ⟨t, r, rfl, hl, .inr hstop⟩

/-- FRAMETAG leaves less of the input, unless it ends the conversion (R90, R229). -/
theorem frameTag_runsTo (hs : s.Ready) :
    RunsTo (frameTag s) fun _ t => t.Ready ∧ t.remaining.length < s.remaining.length := by
  refine (issue_runsTo hs (i := .next) rfl).onAnswer fun f v code next => ?_
  refine (issue_runsTo next.ready (next.fits f.ts)).mono fun r t _ tag => ⟨tag.ready, ?_⟩
  have advanced := next.next_advances hs.running code
  have forward := tag.forward
  have inside := tag.ready.inside
  rw [tag.src, next.src] at inside
  simp only [State.remaining, List.length_drop, tag.src, next.src]
  omega

/-- The loop of CONVERT ends the conversion, given one round more than there are bytes left (R225). -/
theorem frameLoop_runsTo (n : Nat) (hs : s.Ready) (hn : s.remaining.length < n) :
    RunsTo (frameLoop n s) fun _ _ => False := by
  induction n generalizing s with
  | zero => exact absurd hn (Nat.not_lt_zero _)
  | succ n ih => exact (frameTag_runsTo hs).onAnswer fun _ t _ ⟨ready, less⟩ => ih ready (by omega)

/-- CONVERT of a ready block ends the conversion (R225, R226). -/
theorem convert_runsTo (hs : s.Ready) : RunsTo (convert s) fun _ _ => False :=
  (issue_runsTo hs (i := .wrhdr true false) rfl).onAnswer fun _ _ _ header =>
    (configTag_runsTo header.ready).onAnswer fun _ _ _ ready => frameLoop_runsTo _ ready (Nat.lt_succ_self _)

/-- A conversion that has ended has succeeded exactly if the block runs, and then EOS is set (R226). -/
theorem Stopped.succeeded_iff (h : Stopped r t) (hl : t.lastResp = some r) :
    (t.isHalted = true ↔ ¬ t.Succeeded) ∧ (t.Succeeded → statusEos t.status = true) := by
  obtain ⟨halt, -⟩ | ⟨halt, code, eos⟩ := h
  · simp [State.Succeeded, halt]
  · simp [State.Succeeded, halt, hl, code, eos]

/-- Settles O50: CONVERT completes with an answer that ends the conversion. -/
theorem conversionEndsOneWay : Obligations.ConversionEndsOneWay := by
  intro s running inside
  obtain ⟨t, r, ho, hl, ⟨-, never⟩ | hstop⟩ := convert_runsTo ⟨running, inside⟩
  · exact never.elim
  · exact ⟨t, ho, hstop.succeeded_iff hl⟩

end Sys2Proof.Machine
end

section
/-! SUPPORT. The retry loop and the exact read (20_memory.md R52, R54, R55): an exact read is a read of its first bytes followed by an
exact read of the rest, and each attempt of the loop is such a first part. -/

namespace Sys2Proof.Machine

variable {s : State}

/-! ### An exact read in parts -/

/-- A result as the reader has it that already holds the bytes `got`. -/
def ReadResult.prepend (got : List Byte) : ReadResult → ReadResult
  | .ok bytes => .ok (got ++ bytes)
  | .short bytes ending => .short (got ++ bytes) ending

@[simp] theorem ReadResult.prepend_nil (r : ReadResult) : r.prepend [] = r := by cases r <;> rfl

@[simp] theorem ReadResult.prepend_prepend (got more : List Byte) (r : ReadResult) :
    (r.prepend more).prepend got = r.prepend (got ++ more) := by
  cases r <;> simp [ReadResult.prepend]

/-- The state after one attempt of the source delivered n bytes (R52). -/
def State.consume (s : State) (n : Nat) : State := { s with inPos := s.inPos + n }

@[simp] theorem src_consume (n : Nat) : (s.consume n).src = s.src := rfl
@[simp] theorem inPos_consume (n : Nat) : (s.consume n).inPos = s.inPos + n := rfl
@[simp] theorem remaining_consume (n : Nat) : (s.consume n).remaining = s.remaining.drop n := by
  simp [State.remaining]

@[simp] theorem consume_consume (n m : Nat) : (s.consume n).consume m = s.consume (n + m) := by
  simp [State.consume, Nat.add_assoc]

/-- Bytes that are left can be consumed without leaving the input (R26). -/
theorem inPos_consume_le {n : Nat} (inside : s.inPos ≤ s.src.bytes.length) (hn : n ≤ s.remaining.length) :
    (s.consume n).inPos ≤ (s.consume n).src.bytes.length := by
  simp only [State.remaining, List.length_drop] at hn
  simp only [inPos_consume, src_consume]
  omega

/-- InReadExact(k) of bytes there are consumes them (R55). -/
theorem readExact_of_le {k : Nat} (enough : k ≤ s.remaining.length) :
    s.readExact k = (.ok (s.remaining.take k), s.consume k) := if_pos enough

/-- InReadExact(0) delivers nothing and leaves the cursor (R55). -/
@[simp] theorem readExact_zero : s.readExact 0 = (.ok [], s) := readExact_enough s rfl rfl

/-- InReadExact of some bytes at the source's end delivers none (R53). -/
theorem readExact_ended {k : Nat} (inside : s.inPos ≤ s.src.bytes.length) (hk : k ≠ 0) (ended : s.remaining = []) :
    s.readExact k = (.short [] s.src.ending, s) := by
  have atEnd : s.src.bytes.length = s.inPos := (List.drop_eq_nil_iff.mp ended).antisymm inside
  rw [readExact_short s ended (Nat.pos_of_ne_zero hk), atEnd]

/-- InReadExact(k) is n bytes there are, then InReadExact(k - n) (R52, R55). -/
theorem readExact_eq_consume_readExact {k n : Nat} (hk : n ≤ k) (hn : n ≤ s.remaining.length) :
    s.readExact k = ((s.consume n).readExact (k - n)).map (.prepend (s.remaining.take n)) id := by
  have left : (s.consume n).remaining.length = s.remaining.length - n := by simp
  by_cases enough : k ≤ s.remaining.length
  · have bytes : s.remaining.take k = s.remaining.take n ++ (s.remaining.drop n).take (k - n) := by
      rw [← List.take_add, Nat.add_sub_cancel' hk]
    rw [readExact_of_le enough, readExact_of_le (by omega), bytes]
    simp [ReadResult.prepend, hk]
  · rw [readExact_short s rfl (show s.remaining.length < k by omega),
      readExact_short (s.consume n) rfl (show (s.consume n).remaining.length < k - n by omega)]
    have bytes : s.remaining = s.remaining.take n ++ (s.consume n).remaining := by simp
    exact congrArg (fun out => (ReadResult.short out s.src.ending, _)) bytes

/-! ### The retry loop -/

/-- Nothing is missing: the loop answers (R52). -/
@[simp] theorem readLoop_zero (sizes : List Nat) (s : State) (got : List Byte) :
    readLoop sizes 0 s got = some (.ok got, s) := by
  cases sizes <;> simp [readLoop]

/-- Bytes are missing and no attempt is left: no answer yet (R54). -/
theorem readLoop_nil {k : Nat} (hk : k ≠ 0) (got : List Byte) : readLoop [] k s got = none := if_neg hk

/-- Bytes are missing and the source signals its ending: a short answer (R52, R53). -/
theorem readLoop_ended {k : Nat} (hk : k ≠ 0) (ended : s.remaining = []) (chunk : Nat) (later : List Nat) (got : List Byte) :
    readLoop (chunk :: later) k s got = some (.short got s.src.ending, s) := by
  rw [readLoop, if_neg hk, if_pos ended]

/-- Bytes are missing and the source has some: the attempt delivers n of them, and the loop goes on (R52). It delivers at least one
if the source offers one (R54). -/
theorem readLoop_attempt {k : Nat} (hk : k ≠ 0) (more : s.remaining ≠ []) (chunk : Nat) (later : List Nat) (got : List Byte) :
    ∃ n, n ≤ k ∧ n ≤ s.remaining.length ∧ (1 ≤ chunk → 1 ≤ n) ∧
      readLoop (chunk :: later) k s got = readLoop later (k - n) (s.consume n) (got ++ s.remaining.take n) := by
  have left : 0 < s.remaining.length := List.length_pos_iff.mpr more
  refine ⟨min chunk (min k s.remaining.length), by omega, by omega, by omega, ?_⟩
  rw [readLoop, if_neg hk, if_neg more]
  rfl

/-- The loop that holds `got` answers as the exact read of what is missing, after `got` (R52). -/
theorem readLoop_eq_readExact {sizes : List Nat} {k : Nat} {got : List Byte} {r : ReadResult × State}
    (inside : s.inPos ≤ s.src.bytes.length) (answer : readLoop sizes k s got = some r) :
    r = (s.readExact k).map (.prepend got) id := by
  induction sizes generalizing k s got with
  | nil =>
    by_cases hk : k = 0
    · subst hk
      simpa [ReadResult.prepend, eq_comm] using answer
    · simp [readLoop_nil hk] at answer
  | cons chunk later ih =>
    by_cases hk : k = 0
    · subst hk
      simpa [ReadResult.prepend, eq_comm] using answer
    by_cases ended : s.remaining = []
    · rw [readLoop_ended hk ended, Option.some_inj] at answer
      simp [← answer, readExact_ended inside hk ended, ReadResult.prepend]
    · obtain ⟨n, wanted, there, -, attempt⟩ := readLoop_attempt hk ended chunk later got
      rw [attempt] at answer
      rw [ih (inPos_consume_le inside there) answer, readExact_eq_consume_readExact wanted there]
      simp [Prod.map]

/-- Settles O28: the loop starts with no bytes. -/
theorem chunkSizesHaveNoEffect : Obligations.ChunkSizesHaveNoEffect := by
  intro sizes k s r inside answer
  simpa [Prod.map] using readLoop_eq_readExact inside answer

/-- The loop answers when every attempt offers a byte and there are as many attempts as bytes missing (R54): each attempt takes at
least one of them, or meets the source's ending. -/
theorem readLoop_answers {sizes : List Nat} {k : Nat} (progress : ∀ c ∈ sizes, 1 ≤ c) (attempts : k ≤ sizes.length)
    (got : List Byte) : ∃ r, readLoop sizes k s got = some r := by
  induction sizes generalizing k s got with
  | nil =>
    obtain rfl : k = 0 := Nat.le_zero.mp attempts
    exact ⟨_, readLoop_zero _ _ _⟩
  | cons chunk later ih =>
    by_cases hk : k = 0
    · subst hk
      exact ⟨_, readLoop_zero _ _ _⟩
    by_cases ended : s.remaining = []
    · exact ⟨_, readLoop_ended hk ended _ _ _⟩
    · obtain ⟨n, -, -, delivered, attempt⟩ := readLoop_attempt hk ended chunk later got
      have one : 1 ≤ n := delivered (progress chunk List.mem_cons_self)
      rw [attempt]
      refine ih (fun c hc => progress c (List.mem_cons_of_mem _ hc)) ?_ _
      rw [List.length_cons] at attempts
      omega

/-- Settles O29: the loop starts with no bytes. -/
theorem retryLoopEnds : Obligations.RetryLoopEnds :=
  fun _ _ _ progress attempts => readLoop_answers progress attempts []

end Sys2Proof.Machine
end

section
/-! SUPPORT. The decoder and the encoder (30_encoding.md R81 to R89): the words of each kind, which words are illegal, and the way
from a record to its instruction and back. -/

namespace Sys2Proof

/-! ### The fields of a word -/

/-- A word that has these fields is the word packed from them (R81). -/
theorem packWord_eq_of_fields {w : Word} {op : BitVec 8} {arg : BitVec 24} (ho : wordOp w = op) (ha : wordArg w = arg) :
    packWord op arg = w := by
  rw [← ho, ← ha, packWord_fields]

/-- The opcode is one of some bytes exactly when bits 31:24 of the word, as a number, are. -/
theorem wordOp_mem_iff (w : Word) (ops : List (BitVec 8)) :
    wordOp w ∈ ops ↔ w.toNat / 2 ^ 24 ∈ ops.map BitVec.toNat := by
  rw [← wordOp_toNat, List.mem_map_of_injective BitVec.toNat_injective]

/-- The bits of a word under a 24-bit mask are those of its argument. -/
theorem wordArg_and_eq_zero_iff (w : Word) (mask : BitVec 24) :
    wordArg w &&& mask = 0 ↔ w &&& mask.setWidth 32 = 0 := by
  have low : w.toNat % 2 ^ 24 &&& mask.toNat = w.toNat &&& mask.toNat := by
    rw [← Nat.and_two_pow_sub_one_eq_mod, Nat.and_assoc, Nat.and_comm (2 ^ 24 - 1), Nat.and_two_pow_sub_one_eq_mod,
      Nat.mod_eq_of_lt mask.isLt]
  have wide : mask.toNat % 2 ^ 32 = mask.toNat := Nat.mod_eq_of_lt (mask.isLt.trans (by decide))
  rw [← BitVec.toNat_inj, ← BitVec.toNat_inj, BitVec.toNat_and, BitVec.toNat_and, BitVec.toNat_setWidth, wide, wordArg_toNat,
    low]
  rfl

/-! ### TAG records -/

/-- The opcode of a TAG command is its tag type's code (R82, R106), and these are the three TAG opcodes. -/
theorem wordOp_eq_tagCode_iff (w : Word) :
    (∃ ty, wordOp w = Config.tagCode ty) ↔ w.toNat / 2 ^ 24 ∈ [0x08, 0x09, 0x12] := by
  refine Iff.trans ?_ (wordOp_mem_iff w [0x08, 0x09, 0x12])
  constructor
  · rintro ⟨ty, h⟩
    rw [h]
    cases ty <;> decide
  · intro h
    simp only [List.mem_cons, List.not_mem_nil, or_false] at h
    obtain h | h | h := h
    · exact ⟨.audio, h⟩
    · exact ⟨.video, h⟩
    · exact ⟨.script, h⟩

/-- A word with a TAG opcode is a TAG word whatever its argument (R83, R87). -/
theorem decodeWord_of_tagCode {w : Word} {ty : TagType} (ho : wordOp w = Config.tagCode ty) :
    decodeWord w = .tag ty (wordArg w) := by
  cases ty <;> simp [decodeWord, ho, Config.tagCode]

/-- A TAG record decodes exactly when its data is as long as its word says (R88). -/
theorem decode_of_tagCode {c : Cmd} {ty : TagType} (ho : wordOp c.word = Config.tagCode ty) :
    decode c = if c.data.length = c.word.toNat % 2 ^ 24 then .instr (tagInstr ty c.ts c.data) else .badLength := by
  simp only [decode, decodeWord_of_tagCode ho, wordArg_toNat]

/-- The instruction of a tag type is well-formed when its data fits the length field (R88). -/
theorem wellFormed_tagInstr (ty : TagType) (ts : Word) (data : List Byte) :
    wellFormed (tagInstr ty ts data) = tagDataFits data := by
  cases ty <;> rfl

/-- The record of a tag type's instruction (R82, R88). -/
theorem encode_tagInstr (ty : TagType) (ts : Word) (data : List Byte) :
    encode (tagInstr ty ts data) = tagCmd (Config.tagCode ty) ts data := by
  cases ty <;> rfl

/-- A TAG record is the record of its instruction (R88). -/
theorem tagCmd_of_tagCode {c : Cmd} {ty : TagType} (ho : wordOp c.word = Config.tagCode ty)
    (hl : c.data.length = c.word.toNat % 2 ^ 24) : tagCmd (Config.tagCode ty) c.ts c.data = c := by
  have arg : wordArg c.word = BitVec.ofNat 24 c.data.length := by
    rw [hl, ← wordArg_toNat, BitVec.ofNat_toNat, BitVec.setWidth_eq]
  rw [tagCmd, packWord_eq_of_fields ho arg]

/-! ### Both ways -/

/-- Settles O1. -/
theorem decodeEncodeAgree : Obligations.DecodeEncodeAgree := fun _ hw => decode_encode hw

/-- A TAG record that decodes to an instruction is the whole record of that instruction (R88). -/
theorem encode_of_tagCode {c : Cmd} {ty : TagType} {i : Instr} (ho : wordOp c.word = Config.tagCode ty)
    (h : decode c = .instr i) : wellFormed i = true ∧ encode i = c := by
  rw [decode_of_tagCode ho] at h
  split at h
  case isFalse => cases h
  case isTrue hl =>
    obtain rfl := Decoded.instr.inj h
    rw [wellFormed_tagInstr, tagDataFits_iff, encode_tagInstr, hl]
    exact ⟨Nat.mod_lt _ (Nat.two_pow_pos 24), tagCmd_of_tagCode ho hl⟩

/-- Settles O2, by the cases of Decode (R87): the two fields of the word give it back, and a TAG's length too. -/
theorem encodeDecodeAgree : Obligations.EncodeDecodeAgree := by
  intro c i h
  have tag {ty} (ho : wordOp c.word = Config.tagCode ty) :
      wellFormed i = true ∧ (encode i).word = c.word ∧
        ∀ ts data, i = .tagA ts data ∨ i = .tagV ts data ∨ i = .tagS ts data → encode i = c :=
    have ⟨hw, whole⟩ := encode_of_tagCode ho h
    ⟨hw, congrArg Cmd.word whole, fun _ _ _ => whole⟩
  have decoded {j : Instr} (hj : decode c = .instr j) : i = j := Decoded.instr.inj (h.symm.trans hj)
  obtain ⟨-, -, hm⟩ | ⟨ho, ha, hm⟩ | ⟨-, -, hm⟩ | ⟨ho, ha, hm⟩ | ⟨ho, ha, hm⟩ | ⟨ho, ha, hm⟩ | ⟨ho, -⟩ | ⟨ho, -⟩ | ⟨ho, -⟩ |
    ⟨-, -, -, -, -, -, -, hm⟩ := decodeWord_cases c.word
  · simp [decode, hm] at h
  · obtain rfl := decoded (by rw [decode, hm])
    exact ⟨rfl, packWord_eq_of_fields ho (wrhdrArg_flags _ ha).symm, by simp⟩
  · simp [decode, hm] at h
  · obtain rfl := decoded (by rw [decode, hm])
    exact ⟨rfl, packWord_eq_of_fields ho ha, by simp⟩
  · obtain rfl := decoded (by rw [decode, hm])
    exact ⟨rfl, packWord_eq_of_fields ho ha, by simp⟩
  · obtain rfl := decoded (by rw [decode, hm])
    exact ⟨rfl, packWord_eq_of_fields ho ha, by simp⟩
  · exact tag (ty := .audio) ho
  · exact tag (ty := .video) ho
  · exact tag (ty := .script) ho
  · simp [decode, hm] at h

/-! ### Illegal words -/

/-- A record is illegal by its word alone (R87). -/
theorem decode_eq_illegal_iff (c : Cmd) (f : FieldId) : decode c = .illegal f ↔ decodeWord c.word = .illegal f := by
  unfold decode
  cases decodeWord c.word with
  | tag ty len => by_cases h : c.data.length = len.toNat <;> simp [h]
  | _ => simp

/-- The unassigned opcodes are illegal (R82, R107): each case of Decode but the last has an assigned one. -/
theorem decodeWord_eq_opcode_iff (w : Word) :
    decodeWord w = .illegal .opcode ↔ wordOp w ∉ [0x01, 0x02, 0x03, 0x04, 0x08, 0x09, 0x12] := by
  obtain h | h | ⟨h | h | h, _⟩ | h | h | h | h | h | h | h := decodeWord_cases w <;> simp_all

/-- The words with a reserved bit set are illegal (R83, R107): the first and the third case of Decode. -/
theorem decodeWord_eq_reservedBits_iff (w : Word) :
    decodeWord w = .illegal .reservedBits ↔
      wordOp w = 0x01 ∧ wordArg w &&& 0xFFFFFA ≠ 0 ∨ wordOp w ∈ [0x02, 0x03, 0x04] ∧ wordArg w ≠ 0 := by
  obtain h | h | ⟨h | h | h, _⟩ | h | h | h | h | h | h | h := decodeWord_cases w <;> simp_all

/-- Settles O3, with Decode's conditions on the two fields read as numbers. -/
theorem illegalWordsExactly : Obligations.IllegalWordsExactly := by
  intro c
  refine ⟨?_, ?_, fun f => decode_illegal_field, fun ho hl => ?_⟩
  · rw [decode_eq_illegal_iff, decodeWord_eq_opcode_iff, wordOp_mem_iff]
    rfl
  · rw [decode_eq_illegal_iff, decodeWord_eq_reservedBits_iff, wordOp_mem_iff, ne_eq, ne_eq, wordArg_and_eq_zero_iff,
      wordArg_eq_zero_iff]
    exact or_congr_left (and_congr_left' (wordOp_eq_iff _ (by decide)))
  · obtain ⟨ty, hty⟩ := (wordOp_eq_tagCode_iff _).mpr ho
    exact ⟨_, (decode_of_tagCode hty).trans (if_pos hl)⟩

/-! ### Words written out -/

/-- Settles O4: each word is the encoding of its command (R89). -/
theorem wordsOfTheSpecDecode : Obligations.WordsOfTheSpecDecode :=
  ⟨decode_encode (i := .wrhdr true false) rfl, decode_encode (i := .wrhdr false true) rfl, decode_encode (i := .asc) rfl,
    decode_encode (i := .next) rfl, decode_encode (i := .getts) rfl,
    decode_encode (i := .tagA 0x01020304 [0xAA, 0xBB]) rfl, decode_encode (i := .tagV 0 []) rfl,
    decode_encode (i := .tagS 0xFF000000 [0x02]) rfl⟩

/-- The word of a TAG: its opcode over the data length (R83, R89). -/
theorem tagCmd_eq (op : BitVec 8) (ts : Word) {data : List Byte} (fits : data.length < 2 ^ 24) :
    tagCmd op ts data = { word := (op.setWidth 32 <<< 24) ||| BitVec.ofNat 32 data.length, ts := ts, data := data } := by
  have len : (BitVec.ofNat 24 data.length).setWidth 32 = BitVec.ofNat 32 data.length := by
    apply BitVec.eq_of_toNat_eq
    rw [BitVec.toNat_setWidth, BitVec.toNat_ofNat, BitVec.toNat_ofNat, Nat.mod_eq_of_lt fits]
  rw [tagCmd, packWord, len]

/-- Settles O5. -/
theorem encodedWords : Obligations.EncodedWords :=
  ⟨rfl, rfl, rfl, rfl, rfl, rfl, rfl, fun ts _ fits =>
    ⟨tagCmd_eq 0x08 ts fits, tagCmd_eq 0x09 ts fits, tagCmd_eq 0x12 ts fits⟩⟩

end Sys2Proof
end

section
/-! SUPPORT. Single commands of a running block (30_encoding.md R84, R88): a wrong-length TAG is refused and every other record is
answered once; what the framer writes (41_flv_framer.md R161, R165), and what ASC answers (40_adts_parser.md R123). -/

namespace Sys2Proof.Machine

open Host (Outcome)

variable {s t : State} {u : BlockUnit}

/-! ### The port -/

/-- A step on a record that the port does not accept (R88). -/
theorem step_of_badLength {c : Cmd} {rest : List Cmd} (hc : s.cmds = c :: rest) (hd : decode c = .badLength) :
    step s = .refused .operandLength := by
  simp only [step, takeCommand, hc, runCommand, hd]

/-- A step on an illegal word (R192). -/
theorem step_of_illegal {c : Cmd} {rest : List Cmd} {f : FieldId} (hc : s.cmds = c :: rest) (hd : decode c = .illegal f) :
    step s = raiseIllegal f { s with cmds := rest } := by
  simp only [step, takeCommand, hc, runCommand, hd]

/-- Data that no length field can say has no meaning as a TAG (R88). -/
theorem writeTag_of_too_long {data : List Byte} (long : 2 ^ 24 ≤ data.length) (ty : TagType) (ts : Word) :
    writeTag ty ts data s = .refused .operandLength := by
  have unfit : ¬ tagDataFits data = true := by
    rw [tagDataFits_iff]
    exact long.not_gt
  exact if_neg unfit

/-- Settles O11. -/
theorem wrongLengthTagRefused : Obligations.WrongLengthTagRefused := by
  refine ⟨fun s c rest hc ho hl => ?_, fun s ts data long => ?_⟩
  · obtain ⟨ty, hty⟩ := (wordOp_eq_tagCode_iff _).mpr ho
    exact step_of_badLength hc ((decode_of_tagCode hty).trans (if_neg hl))
  · exact ⟨writeTag_of_too_long long .audio ts, writeTag_of_too_long long .video ts, writeTag_of_too_long long .script ts⟩

/-- No command changes what else is at the port (R224). -/
theorem CommandEnds.cmds (h : CommandEnds s u t) : t.cmds = s.cmds := by
  cases h with
  | _ => rfl

/-- Every record but a wrong-length TAG is taken from the port and ends in one of the ends of a command (R193). -/
theorem step_of_accepted {c : Cmd} {rest : List Cmd} (hc : s.cmds = c :: rest) (accepted : decode c ≠ .badLength) :
    ∃ u t, step s = .next t ∧ CommandEnds { s with cmds := rest } u t := by
  cases hd : decode c with
  | instr i =>
    obtain ⟨hw, -⟩ := encodeDecodeAgree c i hd
    obtain ⟨t, he⟩ := exists_exec_next hw { s with cmds := rest }
    exact ⟨_, t, (step_eq_exec hc hd).trans he, exec_ends he⟩
  | illegal f =>
    obtain ⟨t, he⟩ : ∃ t, raiseIllegal f { s with cmds := rest } = .next t := by
      unfold raiseIllegal State.unlessHalted
      split
      · exact ⟨_, rfl⟩
      · exact ⟨_, rfl⟩
    exact ⟨_, t, (step_of_illegal hc hd).trans he, raiseIllegal_ends (decode_illegal_field hd) he⟩
  | badLength => exact absurd hd accepted

/-- Settles O12. -/
theorem everyCommandIsAnsweredOnce : Obligations.EveryCommandIsAnsweredOnce := by
  intro s c rest hc accepted
  obtain ⟨u, t, he, ends⟩ := step_of_accepted hc accepted
  obtain ⟨r, resps, -⟩ := ends.control
  exact ⟨t, r, he, ends.cmds, resps⟩

/-- A halted block answers every instruction of the interface HALTED (R194, R197). -/
theorem exec_halted (s : State) {i : Instr} (hw : wellFormed i = true) (halted : s.isHalted = true) :
    exec i s = .next s.answerHalted := by
  cases hf : isFramer i with
  | true => rw [exec_framer_eq_emit hf hw, unlessHalted_halted s halted]
  | false =>
    cases i with
    | asc => rw [exec, execAsc, unlessHalted_halted s halted]
    | next => rw [exec, execNext, unlessHalted_halted s halted]
    | getts => rw [exec, execGetts, unlessHalted_halted s halted]
    | _ => cases hf

/-! ### The framer -/

/-- The state in which the sink took the bytes `bs` of a command that was answered OK (R62, R170). -/
def State.wrote (s : State) (bs : List Byte) : State :=
  { s with
    outPos := s.outPos + bs.length
    sink := { s.sink with accepted := s.sink.accepted ++ bs }
    status := s.status &&& 0x0300
    resps := s.resps ++ [{ code := .ok, field := .none, frame := s.frames, ts := 0, data := [] }] }

/-- A framer command whose bytes the sink has room for (R161, R165). -/
theorem exec_framer_wrote {i : Instr} (hf : isFramer i = true) (hw : wellFormed i = true) (running : s.isHalted = false)
    (room : ∀ n, s.sink.failAt = some n → s.outPos + (specEmits i).length ≤ n) :
    exec i s = .next (s.wrote (specEmits i)) := by
  rw [exec_framer_eq_emit hf hw, unlessHalted_running s running, State.emit, outWrite_room s room, State.wrote,
    ← statusAnswered_ok]
  rfl

/-- Settles O13. -/
theorem wrhdrWritesFlvHeader : Obligations.WrhdrWritesFlvHeader := fun _ _ _ running room =>
  exec_framer_wrote rfl rfl running room

/-- Settles O14: for each tag type, the framer's write of that type's bytes. -/
theorem tagsWriteFlvTag : Obligations.TagsWriteFlvTag := by
  intro ts data s running fits room after
  have wrote (code : Byte) : after code = s.wrote (specTag code ts data) := by
    simp only [after, State.wrote, specTag_length]
  have tag (ty : TagType) (emits : specEmits (tagInstr ty ts data) = specTag (Config.tagCode ty) ts data) :
      exec (tagInstr ty ts data) s = .next (after (Config.tagCode ty)) := by
    rw [wrote, ← emits]
    refine exec_framer_wrote (by cases ty <;> rfl) ?_ running ?_
    · rwa [wellFormed_tagInstr, tagDataFits_iff]
    · rwa [emits, specTag_length]
  exact ⟨tag .audio rfl, tag .video rfl, tag .script rfl⟩

/-- The bytes of a tag before its timestamp, before its data and before its trailer: R103 cut at the places R104 and R105 name. -/
theorem specTag_eq_append (code : Byte) (ts : Word) (data : List Byte) :
    specTag code ts data = (code :: bytesOfNat 3 data.length) ++
      (bytesOfNat 3 (ts.toNat % 2 ^ 24) ++ bytesOfNat 1 (ts.toNat / 2 ^ 24)) ++ ([0, 0, 0] ++ data) ++
      bytesOfNat 4 (11 + data.length) := by
  simp [specTag]

@[simp] theorem bytesOfNat_length (n v : Nat) : (bytesOfNat n v).length = n := by
  induction n with
  | zero => rfl
  | succ n ih => rw [bytesOfNat, List.length_cons, ih]

/-- The timestamp bytes of a tag are those of its low 24 bits and then its high 8 bits (R104). -/
theorem timestamp_bytes (ts : Word) :
    bytesOfNat 3 (ts.toNat % 2 ^ 24) ++ bytesOfNat 1 (ts.toNat / 2 ^ 24) =
      [BitVec.ofNat 8 (ts.toNat / 2 ^ 16), BitVec.ofNat 8 (ts.toNat / 2 ^ 8), BitVec.ofNat 8 ts.toNat,
        BitVec.ofNat 8 (ts.toNat / 2 ^ 24)] := by
  have byte {m n : Nat} (h : m % 256 = n % 256) : BitVec.ofNat 8 m = BitVec.ofNat 8 n := BitVec.eq_of_toNat_eq (by simpa using h)
  simp only [bytesOfNat, List.cons_append, List.nil_append, List.cons.injEq, and_true]
  exact ⟨byte (by omega), byte (by omega), byte (by omega), byte (by omega)⟩

/-- Settles O16. -/
theorem tagTimestampAndTrailer : Obligations.TagTimestampAndTrailer := by
  intro code ts data fits
  rw [tagBytes_eq_spec]
  refine ⟨specTag_length .., ?_, ?_, by omega⟩
  · rw [specTag_eq_append, timestamp_bytes, List.append_assoc, List.append_assoc, List.drop_left' (by simp)]
    rfl
  · rw [specTag_eq_append, List.drop_left']
    simp
    omega

/-! ### ASC -/

/-- ASC on a header looks at its 7 bytes and goes on with its fields (R57, R123). -/
theorem exec_asc_header (running : s.isHalted = false) {bs later : List Byte} (hb : s.src.bytes.drop s.inPos = bs ++ later)
    (seven : bs.length = 7) :
    exec .asc s = .next ((s.writeHdr bs).answerAsc (headerFields (s.writeHdr bs).hdr)).releaseHdr := by
  have peek : s.peek Config.adtsHeaderLen = .ok bs := by
    rw [peek_eq_readExact, readExact_enough s hb seven]
  simp only [exec, execAsc, unlessHalted_running s running, peek]

/-- ASC on a header whose index exists answers the blob of R99 (R123, R125). -/
theorem answerAsc_of_index (s : State) {hd : AdtsHeader} (index : specSfi hd ≤ 12) :
    s.answerAsc (headerFields hd) =
      s.respond { code := .ok, field := .none, frame := s.frames, ts := 0, data := specAscBlob hd } := by
  obtain ⟨rate, hr⟩ := (specRate_isSome_iff _).mpr index
  simp only [State.answerAsc, sampleRate_eq_spec, hr, ascBlob_eq_spec]

/-- Settles O17. -/
theorem ascReturnsBlob : Obligations.AscReturnsBlob := by
  intro s hd later running hb index
  rw [exec_asc_header running hb (headerBytes_length hd), writeHdr_headerBytes, answerAsc_of_index _ index,
    ← statusAnswered_ok]
  exact ⟨Config.hdrBetween s.unspec, s.unspec + 1, rfl⟩

end Sys2Proof.Machine
end

section
/-! SUPPORT. The header bits outside the four fields (30_encoding.md R92 to R96): two headers that agree in the named bits have the same
fields, and after the header ASC and NEXT read only what follows it. -/

namespace Sys2Proof.Machine

open Host (Outcome)

/-! ### The named bits -/

/-- A field of a byte is known from the bits under a mask that covers it. -/
theorem extractLsb'_eq_of_mask {x y mask : Byte} {k n : Nat} (agree : x &&& mask = y &&& mask)
    (covers : mask.extractLsb' k n = BitVec.allOnes n) : x.extractLsb' k n = y.extractLsb' k n := by
  have field := congrArg (BitVec.extractLsb' k n) agree
  simpa only [BitVec.extractLsb'_and, covers, BitVec.and_allOnes] using field

/-- The four fields are known from the bits R92 to R95 name (R96). -/
theorem headerFields_eq_of_masks {h h' : AdtsHeader} (b2 : h.b2 &&& 0x3D = h'.b2 &&& 0x3D)
    (b3 : h.b3 &&& 0xC3 = h'.b3 &&& 0xC3) (b4 : h.b4 = h'.b4) (b5 : h.b5 &&& 0xE0 = h'.b5 &&& 0xE0)
    (b6 : h.b6 &&& 0x03 = h'.b6 &&& 0x03) :
    headerFields h = headerFields h' := by
  simp only [headerFields, b4, extractLsb'_eq_of_mask (k := 2) (n := 4) b2 rfl, extractLsb'_eq_of_mask (k := 0) (n := 1) b2 rfl,
    extractLsb'_eq_of_mask (k := 6) (n := 2) b3 rfl, extractLsb'_eq_of_mask (k := 0) (n := 2) b3 rfl,
    extractLsb'_eq_of_mask (k := 5) (n := 3) b5 rfl, extractLsb'_eq_of_mask (k := 0) (n := 2) b6 rfl]

/-! ### Two inputs that agree from a position on -/

/-- The two sources have the same bytes from the position `n` on, and end at the same place in the same way. -/
structure Source.SameFrom (n : Nat) (a b : Source) : Prop where
  bytes : a.bytes.drop n = b.bytes.drop n
  length : a.bytes.length = b.bytes.length
  ending : a.ending = b.ending

/-- `s` on another source, with another header in HDR. -/
def State.withHeader (s : State) (src : Source) (hd : AdtsHeader) : State := { s with src := src, hdr := hd }

section WithHeader

variable (s : State) {src : Source} {hd : AdtsHeader}

/-- A read at a position from which the sources agree (R55). -/
theorem readExact_withHeader (same : src.SameFrom s.inPos s.src) (k : Nat) :
    (s.withHeader src hd).readExact k = ((s.readExact k).1, (s.readExact k).2.withHeader src hd) := by
  have left : (s.withHeader src hd).remaining = s.remaining := same.bytes
  have ending : (s.withHeader src hd).src.ending = s.src.ending := same.ending
  have length : (s.withHeader src hd).src.bytes.length = s.src.bytes.length := same.length
  unfold State.readExact
  rw [left, ending, length]
  split <;> rfl

/-- The payload read of NEXT on both sources (R137). -/
theorem readPayload_withHeader (same : src.SameFrom s.inPos s.src) (len : Nat) :
    (s.withHeader src hd).readPayload len = (s.readPayload len).withHeader src hd := by
  unfold State.readPayload
  rw [readExact_withHeader s same]
  obtain ⟨r, t⟩ := s.readExact len
  cases r with
  | ok raw => rfl
  | short out e => rfl

/-- NEXT after its header on both sources: the fields decide, and HDR is not looked at again (R130). -/
theorem answerNext_withHeader (same : src.SameFrom s.inPos s.src) (f : HeaderFields) :
    (s.withHeader src hd).answerNext f = (s.answerNext f).withHeader src hd := by
  unfold State.answerNext
  split
  · rfl
  · split
    · rfl
    · exact readPayload_withHeader (s.advanceTs _) same _

/-- ASC after its header reads neither the source nor HDR (R123). -/
theorem answerAsc_withHeader (f : HeaderFields) :
    (s.withHeader src hd).answerAsc f = (s.answerAsc f).withHeader src hd := by
  unfold State.answerAsc
  split <;> rfl

end WithHeader

/-! ### ASC and NEXT on the two inputs -/

section Header

variable {s t : State} {src : Source} {h h' : AdtsHeader} {later : List Byte}

/-- ASC on two headers with the same fields. -/
theorem exec_asc_of_fields (running : s.isHalted = false) (here : s.src.bytes.drop s.inPos = headerBytes h ++ later)
    (there : src.bytes.drop s.inPos = headerBytes h' ++ later) (fields : headerFields h = headerFields h')
    (he : exec .asc s = .next t) : exec .asc { s with src := src } = .next { t with src := src } := by
  have other := exec_asc_header (s := { s with src := src }) running there (headerBytes_length h')
  rw [exec_asc_header running here (headerBytes_length h), writeHdr_headerBytes] at he
  obtain rfl := Outcome.next.inj he
  rw [other, writeHdr_headerBytes, ← fields]
  exact congrArg (fun v : State => Outcome.next v.releaseHdr) (answerAsc_withHeader (s.writeHdr _) _)

/-- NEXT on two headers with the same fields, followed by the same bytes. -/
theorem exec_next_of_fields (running : s.isHalted = false) (here : s.src.bytes.drop s.inPos = headerBytes h ++ later)
    (there : src.bytes.drop s.inPos = headerBytes h' ++ later) (same : src.SameFrom (s.inPos + 7) s.src)
    (fields : headerFields h = headerFields h') (he : exec .next s = .next t) :
    exec .next { s with src := src } = .next { t with src := src } := by
  have other := exec_next_header (s := { s with src := src }) running there (headerBytes_length h')
  rw [exec_next_header running here (headerBytes_length h), writeHdr_headerBytes] at he
  obtain rfl := Outcome.next.inj he
  rw [other, writeHdr_headerBytes, ← fields]
  exact congrArg (fun v : State => Outcome.next v.releaseHdr)
    (answerNext_withHeader ({ s with inPos := s.inPos + 7 }.writeHdr _) same _)

end Header

/-- Settles O26: the fields are the same, and so is what follows the header. -/
theorem onlyTheFourFieldsAreRead : Obligations.OnlyTheFourFieldsAreRead := by
  intro i s t before later h h' hi input cursor b2 b3 b4 b5 b6 he
  have fields := headerFields_eq_of_masks b2 b3 b4 b5 b6
  have ahead (k : AdtsHeader) : (before ++ headerBytes k ++ later).drop s.inPos = headerBytes k ++ later := by
    rw [cursor, List.append_assoc, List.drop_left]
  have here : s.src.bytes.drop s.inPos = headerBytes h ++ later := input ▸ ahead h
  cases running : s.isHalted with
  | true =>
    have wf : wellFormed i = true := by obtain rfl | rfl := hi <;> rfl
    rw [exec_halted s wf running] at he
    obtain rfl := Outcome.next.inj he
    exact ⟨s.hdr, exec_halted _ wf running⟩
  | false =>
    obtain rfl | rfl := hi
    · exact ⟨t.hdr, exec_asc_of_fields running here (ahead h') fields he⟩
    · refine ⟨t.hdr, exec_next_of_fields running here (ahead h') ⟨?_, by simp [input], rfl⟩ fields he⟩
      rw [input, cursor, List.drop_left' (by simp), List.drop_left' (by simp)]

end Sys2Proof.Machine
end

section
/-! SUPPORT. The output of a conversion (70_reset_and_hazards.md R225, R226): what each of the host's commands reads of the input and
adds to the output, and the sum over a whole well-formed stream, an empty one included. -/

namespace Sys2Proof.Machine

open Host (Outcome)

variable {s t v : State} {f : InputFrame} {fs gs : List InputFrame} {out more : List Byte} {r r' : Resp}
  {o : Outcome State Fault Refusal}

/-! ### What commands read and write -/

/-- Commands took the block from `s` to `t`, which runs: they read the frames `fs` from the input and wrote `out`. -/
structure Reached (s t : State) (fs : List InputFrame) (out : List Byte) : Prop where
  running : t.isHalted = false
  src : t.src = s.src
  input : s.remaining = fs.flatMap InputFrame.bytes ++ t.remaining
  ts : t.ts = s.ts + BitVec.ofNat 32 (specTotal fs)
  frames : t.frames = s.frames + BitVec.ofNat 32 fs.length
  sink : t.sink = { s.sink with accepted := s.sink.accepted ++ out }
  outPos : t.outPos = s.outPos + out.length

/-- Commands after each other read and write one after the other (R60). -/
theorem Reached.trans (h : Reached s t fs out) (h' : Reached t v gs more) : Reached s v (fs ++ gs) (out ++ more) where
  running := h'.running
  src := h'.src.trans h.src
  input := by rw [h.input, h'.input, List.flatMap_append, List.append_assoc]
  ts := by simp [h'.ts, h.ts, specTotal, BitVec.ofNat_add, BitVec.add_assoc]
  frames := by simp [h'.frames, h.frames, BitVec.ofNat_add, BitVec.add_assoc]
  sink := by simp [h'.sink, h.sink]
  outPos := by simp [h'.outPos, h.outPos, Nat.add_assoc]

/-- A command that leaves the parser's registers and the cursor alone reads no frame. -/
theorem Reached.of_unread (running : t.isHalted = false) (src : t.src = s.src) (inPos : t.inPos = s.inPos) (ts : t.ts = s.ts)
    (frames : t.frames = s.frames) (sink : t.sink = { s.sink with accepted := s.sink.accepted ++ out })
    (outPos : t.outPos = s.outPos + out.length) : Reached s t [] out where
  running := running
  src := src
  input := by simp [State.remaining, src, inPos]
  ts := by simp [ts, specTotal]
  frames := by simp [frames]
  sink := sink
  outPos := outPos

/-- The block runs and its sink never fails (R59). -/
structure State.Accepting (s : State) : Prop where
  running : s.isHalted = false
  neverFails : s.sink.failAt = none

theorem Reached.accepting (h : Reached s t fs out) (hs : s.Accepting) : t.Accepting :=
  ⟨h.running, by rw [h.sink]; exact hs.neverFails⟩

/-! ### What the host gets -/

/-- The response OK (R84). -/
def okResp (frame ts : Word) (data : List Byte) : Resp := { code := .ok, field := .none, frame := frame, ts := ts, data := data }

/-- The response END_OF_STREAM (R84, R131). -/
def eosResp (frame : Word) : Resp := { code := .endOfStream, field := .none, frame := frame, ts := 0, data := [] }

/-- The host's commands, started in `s`, complete with `r` as the last answer, and read and wrote this. -/
def Gives (s : State) (o : Outcome State Fault Refusal) (r : Resp) (fs : List InputFrame) (out : List Byte) : Prop :=
  ∃ t, o = .next t ∧ t.lastResp = some r ∧ Reached s t fs out

section OnAnswer

variable {goOn : List RespCode} {next : Resp → State → Outcome State Fault Refusal}

/-- The host goes on after an answer (R90). -/
theorem Gives.onAnswer (h : Gives s o r fs out) (hc : r.code ∈ goOn)
    (hn : ∀ t, Reached s t fs out → Gives t (next r t) r' gs more) :
    Gives s (onAnswer goOn o next) r' (fs ++ gs) (out ++ more) := by
  obtain ⟨t, ho, hr, reached⟩ := h
  obtain ⟨v, hv, hr', reached'⟩ := hn t reached
  exact ⟨v, (onAnswer_goOn ho hr hc).trans hv, hr', reached.trans reached'⟩

/-- The host stops at an answer (R90). -/
theorem Gives.onAnswer_stop (h : Gives s o r fs out) (hc : r.code ∉ goOn) :
    Gives s (Machine.onAnswer goOn o next) r fs out := by
  obtain ⟨t, ho, hr, reached⟩ := h
  exact ⟨t, Machine.onAnswer_stop ho hr hc, hr, reached⟩

end OnAnswer

/-- One issued command. -/
theorem Gives.of_exec {i : Instr} (hw : wellFormed i = true) (he : exec i s = .next t) (hr : t.resps = s.resps ++ [r])
    (reached : Reached s t fs out) : Gives s (issue i s) r fs out :=
  ⟨t, (issue_eq_exec (decode_encode hw)).trans he, lastResp_eq hr, reached⟩

/-- A framer command writes its bytes (R161, R165). -/
theorem issue_framer (hs : s.Accepting) {i : Instr} (hf : isFramer i = true) (hw : wellFormed i = true) :
    Gives s (issue i s) (okResp s.frames 0 []) [] (specEmits i) := by
  have room (n : Nat) (h : s.sink.failAt = some n) : s.outPos + (specEmits i).length ≤ n := by
    rw [hs.neverFails] at h
    cases h
  have running : (s.wrote (specEmits i)).isHalted = false := by
    simpa only [State.isHalted, State.wrote, ← statusAnswered_ok, statusHalt_answered] using hs.running
  exact .of_exec hw (exec_framer_wrote hf hw hs.running room) rfl (.of_unread running rfl rfl rfl rfl rfl rfl)

/-- A payload that is there is read whole (R135). -/
theorem readPayload_enough (s : State) {raw later : List Byte} {len : Nat} (hb : s.src.bytes.drop s.inPos = raw ++ later)
    (whole : raw.length = len) : s.readPayload len = { s with inPos := s.inPos + len }.returnFrame raw := by
  simp only [State.readPayload, readExact_enough s hb whole]

theorem InputFrame.bytes_length (f : InputFrame) : f.bytes.length = 7 + f.raw.length := by
  rw [InputFrame.bytes, List.length_append, headerBytes_length]

/-- NEXT on a well-formed frame: the whole frame is read and returned (R130, R133 to R136). -/
theorem exec_next_frame (running : s.isHalted = false) (ok : f.Ok) {later : List Byte}
    (hb : s.src.bytes.drop s.inPos = f.bytes ++ later) :
    exec .next s = .next ((({ s with inPos := s.inPos + f.bytes.length }.writeHdr (headerBytes f.header)).advanceTs
      (specDuration f.header)).returnFrame f.raw).releaseHdr := by
  obtain ⟨headerOk, length⟩ := ok
  rw [InputFrame.bytes, List.append_assoc] at hb
  have payload : s.src.bytes.drop (s.inPos + 7) = f.raw ++ later := by
    rw [← List.drop_drop, hb]
    exact List.drop_left' (headerBytes_length f.header)
  rw [exec_next_header running hb (headerBytes_length f.header), writeHdr_headerBytes, answerNext_of_headerOk _ headerOk,
    readPayload_enough _ payload (by omega), length, InputFrame.bytes_length, Nat.add_sub_cancel_left, ← Nat.add_assoc]
  rfl

/-- The payload of a frame (R100). -/
def specPayload (f : InputFrame) : List Byte := Config.soundFormatByte :: 0x01 :: f.raw

/-- The host gets the frame at the cursor (R130, R136). -/
theorem issue_next_frame (running : s.isHalted = false) (ok : f.Ok) {later : List Byte} (hb : s.remaining = f.bytes ++ later) :
    Gives s (issue .next s) (okResp s.frames (s.ts + BitVec.ofNat 32 (specDuration f.header)) (specPayload f)) [f] [] := by
  refine .of_exec rfl (exec_next_frame running ok hb) rfl
    { running := ?_, src := rfl, input := ?_, ts := by simp [specTotal], frames := rfl, sink := by simp, outPos := rfl }
  · simpa [State.isHalted] using running
  · have left : s.src.bytes.drop (s.inPos + f.bytes.length) = later := by
      rw [← List.drop_drop]
      exact (congrArg _ hb).trans List.drop_left
    simpa [State.remaining, left] using hb

/-- The host gets END_OF_STREAM from a parser command that ended so (R121, R131). -/
theorem gives_endOfStream {i : Instr} (hw : wellFormed i = true) (running : s.isHalted = false) (ended : s.remaining = [])
    {n : Nat} (hn : s.src.bytes.drop n = []) (he : exec i s = .next { s with inPos := n }.respondEos) :
    Gives s (issue i s) (eosResp s.frames) [] [] := by
  refine .of_exec hw he rfl
    { running := ?_, src := rfl, input := ended.trans hn.symm, ts := by simp [specTotal], frames := by simp, sink := by simp,
      outPos := rfl }
  simpa [State.isHalted] using running

/-- NEXT with nothing left (R131). -/
theorem issue_next_ended (running : s.isHalted = false) (ended : s.remaining = []) (eos : s.src.ending = .eos) :
    Gives s (issue .next s) (eosResp s.frames) [] [] := by
  refine gives_endOfStream rfl running ended (List.drop_length) ?_
  rw [exec_next_short running ended (by decide), eos]
  rfl

/-- ASC with nothing left (R121). -/
theorem issue_asc_ended (running : s.isHalted = false) (ended : s.remaining = []) (eos : s.src.ending = .eos) :
    Gives s (issue .asc s) (eosResp s.frames) [] [] := by
  refine gives_endOfStream rfl running ended ended ?_
  rw [exec_asc_short running ended (by decide), eos]
  rfl

/-- ASC on a header whose index exists (R123). -/
theorem issue_asc_header (running : s.isHalted = false) {hd : AdtsHeader} (index : specSfi hd ≤ 12) {later : List Byte}
    (hb : s.remaining = headerBytes hd ++ later) :
    Gives s (issue .asc s) (okResp s.frames 0 (specAscBlob hd)) [] [] := by
  have he := exec_asc_header running hb (headerBytes_length hd)
  rw [writeHdr_headerBytes, answerAsc_of_index _ index] at he
  exact .of_exec rfl he rfl (.of_unread (by simpa using running) rfl rfl rfl rfl (by simp) rfl)

/-! ### The conversion -/

/-- The payload of a well-formed frame is two bytes and what follows its 7-byte header (R93, R100). -/
theorem InputFrame.Ok.payload_length (ok : f.Ok) : (specPayload f).length + 5 = specFrameLength f.header := by
  simp only [specPayload, List.length_cons, ok.2]
  omega

/-- The payload of a well-formed frame fits a TAG: frameLength has 13 bits (R93). -/
theorem InputFrame.Ok.payload_fits (ok : f.Ok) : tagDataFits (specPayload f) = true := by
  have small : specFrameLength f.header < 2 ^ 13 := fl_toNat f.header ▸ (headerFields f.header).fl.isLt
  have length := ok.payload_length
  rw [tagDataFits_iff]
  omega

/-- The data ASC answers at the start of these frames; with no frame, END_OF_STREAM has none (R123). -/
def ascData : List InputFrame → List Byte
  | [] => []
  | f :: _ => specAscBlob f.header

/-- The configuration tag of CONVERT in front of well-formed frames and the end of the stream (R225; log 12). -/
theorem configTag_of_frames (hs : s.Accepting) (eos : s.src.ending = .eos) (ok : ∀ f ∈ fs, f.Ok)
    (input : s.remaining = fs.flatMap InputFrame.bytes) :
    Gives s (configTag [.ok, .endOfStream] s) (okResp s.frames 0 []) [] (specTag 0x08 0 (ascData fs)) := by
  have tag (data : List Byte) (fits : tagDataFits data = true) (t : State) (h : Reached s t [] []) :
      Gives t (issue (.tagA 0 data) t) (okResp s.frames 0 []) [] (specTag 0x08 0 data) := by
    have frames : t.frames = s.frames := by simpa using h.frames
    exact frames ▸ issue_framer (h.accepting hs) (i := .tagA 0 data) rfl fits
  cases fs with
  | nil => exact (issue_asc_ended hs.running input eos).onAnswer (by simp [eosResp]) (tag [] rfl)
  | cons f fs =>
    obtain ⟨⟨-, index⟩, -⟩ := ok f List.mem_cons_self
    have header : s.remaining = headerBytes f.header ++ (f.raw ++ fs.flatMap InputFrame.bytes) := by
      rw [input, List.flatMap_cons, InputFrame.bytes, List.append_assoc]
    exact (issue_asc_header hs.running index header).onAnswer (by simp [okResp]) (tag (specAscBlob f.header) rfl)

/-- FRAMETAG on a well-formed frame writes its tag (R90, R229). -/
theorem frameTag_of_frame (hs : s.Accepting) (ok : f.Ok) {later : List Byte} (hb : s.remaining = f.bytes ++ later) :
    Gives s (frameTag s) (okResp (s.frames + 1) 0 []) [f]
      (specTag 0x08 (s.ts + BitVec.ofNat 32 (specDuration f.header)) (specPayload f)) := by
  refine (issue_next_frame hs.running ok hb).onAnswer (by simp [okResp]) (gs := []) (out := []) fun t h => ?_
  have frames : t.frames = s.frames + 1 := h.frames
  exact frames ▸ issue_framer (h.accepting hs) (i := .tagA _ _) rfl ok.payload_fits

/-- The loop of CONVERT on well-formed frames and the end of the stream: one tag for each frame, then END_OF_STREAM (R225). -/
theorem frameLoop_of_frames {n : Nat} (hs : s.Accepting) (eos : s.src.ending = .eos) (ok : ∀ f ∈ fs, f.Ok)
    (input : s.remaining = fs.flatMap InputFrame.bytes) (rounds : fs.length < n) :
    Gives s (frameLoop n s) (eosResp (s.frames + BitVec.ofNat 32 fs.length)) fs (specFrameTags s.ts fs) := by
  induction fs generalizing s n with
  | nil =>
    obtain ⟨n, rfl⟩ := Nat.exists_eq_add_one.mpr rounds
    have frames : s.frames + BitVec.ofNat 32 ([] : List InputFrame).length = s.frames := BitVec.add_zero _
    rw [frames]
    have stop : (eosResp s.frames).code ∉ [RespCode.ok] := by simp [eosResp]
    exact ((issue_next_ended hs.running input eos).onAnswer_stop stop).onAnswer_stop stop
  | cons f fs ih =>
    obtain ⟨n, rfl⟩ := Nat.exists_eq_add_one.mpr (Nat.zero_lt_of_lt rounds)
    have first := frameTag_of_frame hs (ok f List.mem_cons_self) input
    refine first.onAnswer (by simp [okResp]) fun t h => ?_
    have rest : t.remaining = fs.flatMap InputFrame.bytes := by
      have := h.input
      rw [input] at this
      simpa using this.symm
    have last := ih (n := n) (h.accepting hs) (h.src ▸ eos) (fun g hg => ok g (List.mem_cons_of_mem _ hg)) rest
      (by simpa using rounds)
    have ts : t.ts = s.ts + BitVec.ofNat 32 (specDuration f.header) := by simpa [specTotal] using h.ts
    have frames : t.frames + BitVec.ofNat 32 fs.length = s.frames + BitVec.ofNat 32 (f :: fs).length := by
      rw [h.frames, BitVec.add_assoc, ← BitVec.ofNat_add, ← List.length_append, List.singleton_append]
    rw [frames, ts] at last
    simpa using last

/-- Each frame takes at least its header's 7 bytes, so the frames are no more than the bytes. -/
theorem length_le_flatMap_bytes (fs : List InputFrame) : fs.length ≤ (fs.flatMap InputFrame.bytes).length := by
  induction fs with
  | nil => rfl
  | cons f fs ih =>
    rw [List.flatMap_cons, List.length_append, List.length_cons, InputFrame.bytes_length]
    omega

/-- CONVERT of well-formed frames and the end of the stream, of no frame too: what it reads and writes (R225, R226; log 12). -/
theorem convert_of_frames (hs : s.Accepting) (eos : s.src.ending = .eos) (ok : ∀ f ∈ fs, f.Ok)
    (input : s.remaining = fs.flatMap InputFrame.bytes) :
    Gives s (convert s) (eosResp (s.frames + BitVec.ofNat 32 fs.length)) fs
      (specFlvHeader true false ++ (specTag 0x08 0 (ascData fs) ++ specFrameTags s.ts fs)) := by
  refine (issue_framer hs (i := .wrhdr true false) rfl rfl).onAnswer (by simp [okResp]) fun t h => ?_
  have input' : t.remaining = fs.flatMap InputFrame.bytes := h.input.symm.trans input
  have eos' : t.src.ending = .eos := h.src ▸ eos
  refine (configTag_of_frames (h.accepting hs) eos' ok input').onAnswer (by simp [okResp]) fun v h' => ?_
  have both := h.trans h'
  have rest : v.remaining = fs.flatMap InputFrame.bytes := both.input.symm.trans input
  have ts : v.ts = s.ts := by simpa [specTotal] using both.ts
  have frames : v.frames = s.frames := by simpa using both.frames
  rw [← ts, ← frames]
  exact frameLoop_of_frames (both.accepting hs) (both.src ▸ eos) ok rest
    (Nat.lt_succ_of_le (rest ▸ length_le_flatMap_bytes fs))

/-- A conversion whose last answer is END_OF_STREAM has succeeded, with EOS set (R29, R226). -/
theorem Gives.succeeds {frame : Word} (running : s.isHalted = false) (inside : s.inPos ≤ s.src.bytes.length)
    (h : Gives s (convert s) (eosResp frame) fs out) :
    ∃ t, convert s = .next t ∧ t.Succeeded ∧ t.status.getLsbD 8 = true ∧ Reached s t fs out := by
  obtain ⟨t, ho, hr, reached⟩ := h
  obtain ⟨t', ho', -, eos⟩ := conversionEndsOneWay s running inside
  obtain rfl := Outcome.next.inj (ho'.symm.trans ho)
  have succeeded : t'.Succeeded := ⟨reached.running, _, hr, rfl⟩
  exact ⟨t', ho, succeeded, eos succeeded, reached⟩

/-- The tags of well-formed frames in bytes (R226). -/
theorem specFrameTags_length (ts : Word) (ok : ∀ f ∈ fs, f.Ok) :
    (specFrameTags ts fs).length = (fs.map fun f => specFrameLength f.header + 10).sum := by
  induction fs generalizing ts with
  | nil => rfl
  | cons f fs ih =>
    have payload := (ok f List.mem_cons_self).payload_length
    have rest := ih (ts + BitVec.ofNat 32 (specDuration f.header)) fun g hg => ok g (List.mem_cons_of_mem _ hg)
    rw [specFrameTags, List.length_append, rest, specTag_length, List.map_cons, List.sum_cons]
    simp only [specPayload] at payload
    omega

/-- Settles O48. -/
theorem convertWritesTheFile : Obligations.ConvertWritesTheFile := by
  intro s f fs running ok input eos neverFails
  have inside : s.inPos ≤ s.src.bytes.length := by
    by_contra h
    rw [List.drop_eq_nil_of_le (by omega)] at input
    cases input
  obtain ⟨t, ho, succeeded, eosSet, reached⟩ :=
    (convert_of_frames ⟨running, neverFails⟩ eos ok input).succeeds running inside
  refine ⟨t, ho, succeeded, eosSet, ?_, ?_⟩
  · rw [reached.sink, List.append_assoc, List.append_assoc]
    rfl
  · rw [reached.outPos, List.length_append, List.length_append, specFrameTags_length _ ok, specFlvHeader_length, specTag_length,
      Nat.add_assoc 13]
    rfl

/-- Settles O49: the conversion of no frame. -/
theorem convertOfEmptyInput : Obligations.ConvertOfEmptyInput := by
  intro s running atEnd eos neverFails
  have input : s.remaining = ([] : List InputFrame).flatMap InputFrame.bytes := List.drop_eq_nil_of_le atEnd.ge
  obtain ⟨t, ho, succeeded, eosSet, reached⟩ :=
    (convert_of_frames ⟨running, neverFails⟩ eos (by simp) input).succeeds running atEnd.le
  refine ⟨t, ho, succeeded, eosSet, ?_, ?_, ?_, ?_⟩
  · simpa using reached.frames
  · simpa [specTotal] using reached.ts
  · simp [reached.sink, ascData, specFrameTags]
  · simp [reached.outPos, ascData, specFrameTags]

end Sys2Proof.Machine
end

section
/-! SUPPORT. The single commands of the parser (40_adts_parser.md): the header checks of ASC and NEXT (R122, R132), a whole frame
(R135), END_OF_STREAM and ASC given again (R128, R131), GETTS (R140), and the range of a frame's duration (R133). -/

namespace Sys2Proof.Machine

open Host (Outcome)

variable {s t : State} {hd : AdtsHeader}

/-! ### The header checks -/

/-- The indices 13 to 15 have no rate (R97, R122). -/
theorem specRate_eq_none {n : Nat} (bad : 13 ≤ n) : specRate n = none := by
  rw [Option.eq_none_iff_forall_ne_some]
  intro rate hr
  have := (specRate_isSome_iff n).mp ⟨rate, hr⟩
  omega

/-- ASC on a header whose index has no rate (R123). -/
theorem answerAsc_of_bad_index (s : State) (bad : 13 ≤ specSfi hd) :
    s.answerAsc (headerFields hd) = s.raise .malformedFrame .samplingFrequencyIndex [] := by
  simp only [State.answerAsc, sampleRate_eq_spec, specRate_eq_none bad]

/-- NEXT on a malformed header: frameLength is checked before the index (R132). -/
theorem answerNext_of_malformed (s : State) (bad : ¬ specHeaderOk hd) :
    s.answerNext (headerFields hd) =
      s.raise .malformedFrame (if specFrameLength hd < 7 then .frameLength else .samplingFrequencyIndex) [] := by
  by_cases short : specFrameLength hd < 7
  · simp only [State.answerNext, fl_toNat, Config.adtsHeaderLen, if_pos short]
  · have index : 13 ≤ specSfi hd := by
      unfold specHeaderOk at bad
      omega
    simp only [State.answerNext, fl_toNat, Config.adtsHeaderLen, if_neg short, sampleRate_eq_spec, specRate_eq_none index]

/-- Settles O18. -/
theorem ascRejectsBadIndex : Obligations.AscRejectsBadIndex := by
  intro s hd later running hb bad
  rw [exec_asc_header running hb (headerBytes_length hd), writeHdr_headerBytes, answerAsc_of_bad_index _ bad, raise_eq]
  exact ⟨Config.hdrBetween s.unspec, s.unspec + 1, rfl⟩

/-- Settles O21, by whether frameLength fails. -/
theorem nextRejectsMalformedHeader : Obligations.NextRejectsMalformedHeader := by
  intro s hd later running hb bad
  rw [exec_next_header running hb (headerBytes_length hd), writeHdr_headerBytes, answerNext_of_malformed _ bad, raise_eq]
  refine ⟨Config.hdrBetween s.unspec, s.unspec + 1, congrArg _ ?_⟩
  by_cases short : specFrameLength hd < 7
  · simp only [if_pos short]
    rfl
  · simp only [if_neg short]
    rfl

/-! ### Answers that are no error -/

/-- Settles O20. -/
theorem nextReturnsFrame : Obligations.NextReturnsFrame := by
  intro s f later running ok hb
  rw [exec_next_frame running ok hb, ← statusAnswered_ok, ok.2, ← InputFrame.bytes_length]
  exact ⟨Config.hdrBetween s.unspec, s.unspec + 1, rfl⟩

/-- Settles O24. -/
theorem gettsReturnsTimestamp : Obligations.GettsReturnsTimestamp := by
  intro s running
  simp only [exec, execGetts, unlessHalted_running s running, ← statusAnswered_ok]
  rfl

/-- END_OF_STREAM answered again leaves STATUS as it is (R29). -/
theorem eosStatus_idem (st : BitVec 16) :
    ((st &&& 0x0200) ||| 0x0101) &&& 0x0200 ||| 0x0101 = (st &&& 0x0200) ||| 0x0101 := by
  rw [BitVec.and_or_distrib_right, BitVec.and_assoc, BitVec.or_assoc]
  rfl

/-- NEXT at a clean end of the stream (R131). -/
theorem exec_next_ended (running : s.isHalted = false) (atEnd : s.inPos = s.src.bytes.length) (eos : s.src.ending = .eos) :
    exec .next s = .next s.respondEos := by
  have ended : s.src.bytes.drop s.inPos = [] := List.drop_eq_nil_of_le atEnd.ge
  rw [exec_next_short running ended (by decide), eos, ← atEnd]
  rfl

/-- END_OF_STREAM twice is END_OF_STREAM and its response again (R131). -/
theorem respondEos_respondEos (s : State) :
    s.respondEos.respondEos = { s.respondEos with resps := s.respondEos.resps ++ [eosResp s.frames] } := by
  rw [respondEos_eq s.respondEos, respondEos_eq s, eosStatus_idem]
  rfl

/-- Settles O23: NEXT at the end of the stream, and NEXT again in the state it leaves. -/
theorem nextAtEndOfStreamRepeats : Obligations.NextAtEndOfStreamRepeats := by
  intro s running atEnd eos
  have running' : s.respondEos.isHalted = false := (isHalted_respondEos s).trans running
  have again := exec_next_ended running' atEnd eos
  rw [respondEos_respondEos, respondEos_eq] at again
  rw [respondEos_eq] at running'
  refine ⟨(exec_next_ended running atEnd eos).trans (congrArg _ (respondEos_eq s)), running', again.trans ?_⟩
  simp only [List.append_assoc]
  rfl

/-! ### ASC twice -/

/-- Seven bytes are a header (R91). -/
theorem exists_headerBytes_append {bs : List Byte} (seven : 7 ≤ bs.length) : ∃ hd later, bs = headerBytes hd ++ later := by
  match bs, seven with
  | b0 :: b1 :: b2 :: b3 :: b4 :: b5 :: b6 :: later, _ => exact ⟨⟨b0, b1, b2, b3, b4, b5, b6⟩, later, rfl⟩

/-- An ASC that does not halt the block found a clean end of the stream, or a header whose index exists (R121, R123). -/
theorem endOrHeader_of_asc_running (running : s.isHalted = false) (he : exec .asc s = .next t) (running' : t.isHalted = false) :
    (s.remaining = [] ∧ s.src.ending = .eos) ∨ ∃ hd later, s.remaining = headerBytes hd ++ later ∧ specSfi hd ≤ 12 := by
  by_cases seven : 7 ≤ s.remaining.length
  · obtain ⟨hd, later, hb⟩ := exists_headerBytes_append seven
    refine .inr ⟨hd, later, hb, ?_⟩
    by_contra bad
    rw [exec_asc_header running hb (headerBytes_length hd), writeHdr_headerBytes, answerAsc_of_bad_index _ (by omega)] at he
    obtain rfl := Outcome.next.inj he
    simp at running'
  · rw [exec_asc_short running rfl (Nat.not_le.mp seven)] at he
    obtain rfl := Outcome.next.inj he
    cases ending : s.src.ending with
    | ioerr => simp [ending, State.endShortHeader] at running'
    | eos =>
      cases left : s.src.bytes.drop s.inPos with
      | nil => exact .inl ⟨left, rfl⟩
      | cons b bs => simp [ending, left, State.endShortHeader] at running'

/-- ASC at a clean end of the stream (R121). -/
theorem exec_asc_ended (running : s.isHalted = false) (ended : s.remaining = []) (eos : s.src.ending = .eos) :
    exec .asc s = .next s.respondEos := by
  rw [exec_asc_short running ended (by decide), eos]
  rfl

/-- Settles O25, by what the first ASC found at the cursor: the second finds the same. -/
theorem ascIsIdempotent : Obligations.AscIsIdempotent := by
  intro s t running he running'
  obtain ⟨ended, eos⟩ | ⟨hd, later, hb, index⟩ := endOrHeader_of_asc_running running he running'
  · rw [exec_asc_ended running ended eos] at he
    obtain rfl := Outcome.next.inj he
    refine ⟨_, eosResp s.frames, s.hdr, s.unspec, exec_asc_ended running' ended eos, rfl, ?_⟩
    exact respondEos_respondEos s
  · obtain ⟨h, n, first⟩ := ascReturnsBlob s hd later running hb index
    obtain rfl := Outcome.next.inj (first.symm.trans he)
    obtain ⟨h', n', second⟩ := ascReturnsBlob _ hd later running' hb index
    refine ⟨_, okResp s.frames 0 (specAscBlob hd), h', n', second, rfl, ?_⟩
    simp only [BitVec.and_assoc]
    rfl

/-! ### The duration of a frame -/

/-- The rates of R97 lie between the last and the first of them. -/
theorem sampleRate_range {sfi : BitVec 4} {rate : Nat} (hr : sampleRate sfi = some rate) : 7350 ≤ rate ∧ rate ≤ 96000 := by
  have range : ∀ r ∈ Config.srTable, 7350 ≤ r ∧ r ≤ 96000 := by decide
  exact range rate (List.mem_of_getElem? hr)

/-- Settles O27: one block at the highest rate takes 10 ms, and four at the lowest take 557 ms. -/
theorem durationRange : Obligations.DurationRange := by
  intro nrdb sfi rate hr
  obtain ⟨low, high⟩ := sampleRate_range hr
  have blocks := nrdb.isLt
  refine ⟨rfl, ?_, Nat.le_of_lt_succ ?_⟩
  · rw [frameDuration, Nat.le_div_iff_mul_le (by omega)]
    omega
  · rw [frameDuration, Nat.div_lt_iff_lt_mul (by omega)]
    omega

end Sys2Proof.Machine
end

section
/-! SUPPORT. Runs of NEXT commands over well-formed frames (40_adts_parser.md R139, R141): the induction over the frames is done once, in
`run_frames`, for whatever stands behind them in the input and at the port. -/

namespace Sys2Proof.Machine

variable {s t v : State} {f : InputFrame} {fs : List InputFrame} {later : List Byte} {rest : List Cmd}

/-- NEXT commands took the running block from `s` to `t`: they returned the frames `fs` and nothing else. -/
structure Framed (s t : State) (fs : List InputFrame) : Prop extends Reached s t fs [] where
  inPos : t.inPos = s.inPos + specLength fs
  resps : t.resps = s.resps ++ specAnswers s.ts s.frames fs

/-- No frame and no command. -/
theorem Framed.refl (running : s.isHalted = false) : Framed s s [] where
  toReached := .of_unread running rfl rfl rfl rfl (by simp) rfl
  inPos := rfl
  resps := (List.append_nil _).symm

/-- One frame, and then the others. -/
theorem Framed.cons (h : Framed s t [f]) (h' : Framed t v fs) : Framed s v (f :: fs) where
  toReached := h.toReached.trans h'.toReached
  inPos := by simp [h'.inPos, h.inPos, specLength, Nat.add_assoc]
  resps := by simp [h'.resps, h.resps, h.ts, h.frames, specAnswers, specTotal]

/-- NEXT at the port takes the frame at the cursor (R8, R130). -/
theorem step_next_frame (running : s.isHalted = false) (ok : f.Ok) (hb : s.remaining = f.bytes ++ later)
    (hc : s.cmds = encode .next :: rest) : ∃ t, step s = .next t ∧ Framed s t [f] ∧ t.cmds = rest := by
  have legal : decode (encode .next) = .instr .next := decode_encode rfl
  obtain ⟨h, n, he⟩ := nextReturnsFrame { s with cmds := rest } f later running ok hb
  obtain ⟨t, issued, -, reached⟩ := issue_next_frame (s := { s with cmds := rest }) running ok hb
  rw [issue_eq_exec legal, he] at issued
  obtain rfl := Host.Outcome.next.inj issued
  exact ⟨_, (step_eq_exec hc legal).trans he, { reached with inPos := by simp [specLength], resps := rfl }, rfl⟩

/-- As many NEXT commands as there are well-formed frames at the cursor return them; the run goes on behind them (R139). -/
theorem run_frames (running : s.isHalted = false) (ok : ∀ f ∈ fs, f.Ok)
    (hb : s.remaining = fs.flatMap InputFrame.bytes ++ later)
    (hc : s.cmds = List.replicate fs.length (encode .next) ++ rest) :
    ∃ t, (∀ k, Host.Core.run Sys2Proof.core (fs.length + k) s = Host.Core.run Sys2Proof.core k t) ∧
      Framed s t fs ∧ t.cmds = rest := by
  induction fs generalizing s with
  | nil => exact ⟨s, fun k => by rw [List.length_nil, Nat.zero_add], .refl running, hc⟩
  | cons f fs ih =>
    rw [List.flatMap_cons, List.append_assoc] at hb
    obtain ⟨t, first, framed, cmds⟩ := step_next_frame running (ok f List.mem_cons_self) hb hc
    have left : t.remaining = fs.flatMap InputFrame.bytes ++ later := by
      have input := framed.input
      rw [hb] at input
      simpa using input.symm
    obtain ⟨v, run, framed', cmds'⟩ := ih framed.running (fun g hg => ok g (List.mem_cons_of_mem _ hg)) left cmds
    refine ⟨v, fun k => ?_, framed.cons framed', cmds'⟩
    rw [List.length_cons, Nat.add_right_comm, run_next _ first, run]

/-- The word of NEXT (R89). -/
theorem encode_next : encode .next = { word := 0x03000000, ts := 0, data := [] } := rfl

/-- Well-formed frames in bytes (R93). -/
theorem flatMap_bytes_length (ok : ∀ f ∈ fs, f.Ok) : (fs.flatMap InputFrame.bytes).length = specLength fs := by
  rw [List.length_flatMap, specLength]
  refine congrArg List.sum (List.map_congr_left fun f hf => ?_)
  rw [InputFrame.bytes_length, (ok f hf).2]

/-- Settles O45: the frames, and NEXT at the end of the stream. -/
theorem framingOfWellFormedInput : Obligations.FramingOfWellFormedInput := by
  intro s fs running ok input inside eos cmds
  rw [← encode_next, List.replicate_succ'] at cmds
  obtain ⟨t, run, framed, last⟩ := run_frames running ok (input.trans (List.append_nil _).symm) cmds
  have atEnd : t.inPos = t.src.bytes.length := by
    have length := congrArg List.length input
    rw [List.length_drop, flatMap_bytes_length ok] at length
    rw [framed.inPos, framed.src]
    omega
  obtain ⟨ended, running', -⟩ :=
    nextAtEndOfStreamRepeats { t with cmds := [] } framed.running atEnd (framed.src ▸ eos)
  have final := (step_eq_exec last (decode_encode rfl)).trans ended
  refine ⟨_, (run 1).trans (run_next 0 final), framed.frames, framed.inPos, framed.ts, framed.src ▸ atEnd, running', ?_⟩
  rw [← framed.frames, ← framed.resps]

/-- The answer to the frame `k` is OK with the durations of the frames up to it, itself included (R134, R136). -/
theorem specAnswers_getElem? {k : Nat} (hk : k < fs.length) (ts frames : Word) :
    ∃ r, (specAnswers ts frames fs)[k]? = some r ∧ r.code = .ok ∧ r.ts = ts + BitVec.ofNat 32 (specTotal (fs.take (k + 1))) := by
  induction fs generalizing k ts frames with
  | nil => cases hk
  | cons f fs ih =>
    cases k with
    | zero => exact ⟨_, rfl, rfl, by simp [specTotal]⟩
    | succ k =>
      obtain ⟨r, hr, code, sum⟩ :=
        ih (Nat.lt_of_succ_lt_succ hk) (ts + BitVec.ofNat 32 (specDuration f.header)) (frames + 1)
      exact ⟨r, hr, code, by simp [sum, specTotal, BitVec.ofNat_add, BitVec.add_assoc]⟩

/-- Frames of one duration (R141). -/
theorem specTotal_of_constant {d : Nat} (constant : ∀ f ∈ fs, specDuration f.header = d) : specTotal fs = fs.length * d := by
  have sum := List.sum_eq_card_nsmul (fs.map fun f => specDuration f.header) d (by simpa using constant)
  simpa [specTotal] using sum

/-- Settles O46. -/
theorem constantStreamTimestamps : Obligations.ConstantStreamTimestamps := by
  intro s fs later blocks rate running start frames input cmds
  rw [← encode_next] at cmds
  obtain ⟨t, run, framed, -⟩ :=
    run_frames running (fun f hf => (frames f hf).1) input (cmds.trans (List.append_nil _).symm)
  refine ⟨t, run 0, fun k hk => ?_⟩
  obtain ⟨r, hr, code, ts⟩ := specAnswers_getElem? hk s.ts s.frames
  refine ⟨r, ?_, code, ?_⟩
  · rw [framed.resps, List.getElem?_append_right (Nat.le_add_right _ _), Nat.add_sub_cancel_left, hr]
  · have constant : ∀ f ∈ fs.take (k + 1), specDuration f.header = blocks * 1024 * 1000 / rate := by
      intro f hf
      obtain ⟨-, hblocks, hrate⟩ := frames f (List.mem_of_mem_take hf)
      simp only [specDuration, hrate, hblocks]
    have length : (fs.take (k + 1)).length = k + 1 := List.length_take_of_le hk
    rw [ts, start, specTotal_of_constant constant, length]
    simp

end Sys2Proof.Machine
end

section
/-! SUPPORT. The framer's output as a whole (41_flv_framer.md R170, R171): a sink that fails inside a command's bytes, and a run of
framer commands, which adds all their bytes to the output or ends halted. -/

namespace Sys2Proof.Machine

variable {s t : State} {i : Instr} {is : List Instr} {rest : List Cmd} {fs : List InputFrame} {out : List Byte}

/-! ### A sink that fails -/

/-- A framer command among whose bytes the sink fails: those before the fail point are in the sink, and the write is the error
(R62, R170). -/
theorem exec_framer_failed {n : Nat} (hf : isFramer i = true) (hw : wellFormed i = true) (running : s.isHalted = false)
    (limit : s.sink.failAt = some n) (before : s.outPos ≤ n) (inside : n < s.outPos + (specEmits i).length) :
    exec i s = .next ((s.append ((specEmits i).take (n - s.outPos))).raise .writeFailure .sink []) := by
  rw [exec_framer_eq_emit hf hw, unlessHalted_running s running, State.emit, outWrite_fail s limit before inside]

/-- Settles O15: the error after the accepted bytes, whose number takes OUT_POS to the fail point. -/
theorem sinkFailureKeepsAcceptedBytes : Obligations.SinkFailureKeepsAcceptedBytes := by
  intro i s n hf hw running limit before inside
  have reached : s.outPos + ((specEmits i).take (n - s.outPos)).length = n := by
    rw [List.length_take]
    omega
  rw [exec_framer_failed hf hw running limit before inside, raise_eq, State.append, reached]
  rfl

/-! ### A run of framer commands -/

/-- A framer command that leaves the block running found it running and wrote all its bytes (R165, R170, R197). -/
theorem reached_of_exec_framer (hf : isFramer i = true) (he : exec i s = .next t) (running : t.isHalted = false) :
    s.isHalted = false ∧ Reached s t [] (specEmits i) := by
  rw [exec_framer_eq_emit hf (wellFormed_of_exec_next he)] at he
  obtain ⟨halted, rfl⟩ | ⟨found, he⟩ := (unlessHalted_next s).mp he
  · exact absurd (halted.symm.trans running) (by decide)
  · obtain rfl := Host.Outcome.next.inj he
    obtain ⟨-, whole⟩ | ⟨n, -, -, failed⟩ := emit_cases s (specEmits i)
    · rw [whole] at running ⊢
      exact ⟨found, .of_unread running rfl rfl rfl rfl rfl rfl⟩
    · rw [failed, isHalted_raise] at running
      cases running

/-- The port is no stream. -/
theorem Reached.of_cmds (h : Reached { s with cmds := rest } t fs out) : Reached s t fs out := { h with }

/-- A run of framer commands after which the block runs found it running and wrote the bytes of all of them, in order (R60, R171). -/
theorem reached_of_run_framer (framers : ∀ i ∈ is, isFramer i = true ∧ wellFormed i = true) (hc : s.cmds = is.map encode)
    (run : Host.Core.run Sys2Proof.core is.length s = .next t) (running : t.isHalted = false) :
    s.isHalted = false ∧ Reached s t [] (is.flatMap specEmits) := by
  induction is generalizing s with
  | nil =>
    obtain rfl := Host.Outcome.next.inj run
    exact ⟨running, .of_unread running rfl rfl rfl rfl (by simp) rfl⟩
  | cons i is ih =>
    obtain ⟨⟨hf, hw⟩, later⟩ := List.forall_mem_cons.mp framers
    obtain ⟨u, he⟩ := exists_exec_next hw { s with cmds := is.map encode }
    have first : step s = .next u := (step_eq_exec hc (decode_encode hw)).trans he
    rw [List.length_cons, run_next _ first] at run
    obtain ⟨between, others⟩ := ih later (exec_ends he).cmds run
    obtain ⟨found, wrote⟩ := reached_of_exec_framer hf he between
    exact ⟨found, wrote.of_cmds.trans others⟩

/-! ### The size law -/

/-- The commands of R171: a WRHDR and then the tags. -/
def wrhdrThenTags (hasAudio hasVideo : Bool) (tags : List (TagType × Word × List Byte)) : List Instr :=
  .wrhdr hasAudio hasVideo :: tags.map fun x => tagInstr x.1 x.2.1 x.2.2

theorem isFramer_tagInstr (ty : TagType) (ts : Word) (data : List Byte) : isFramer (tagInstr ty ts data) = true := by
  cases ty with
  | _ => rfl

/-- A TAG of any type emits 15 + L bytes (R103, R171). -/
theorem specEmits_tagInstr_length (ty : TagType) (ts : Word) (data : List Byte) :
    (specEmits (tagInstr ty ts data)).length = 15 + data.length := by
  cases ty with
  | _ => exact specTag_length ..

section WrhdrThenTags

variable {tags : List (TagType × Word × List Byte)}

/-- With data that the length field can say, all of them are framer commands of the interface (R88). -/
theorem wrhdrThenTags_framers (fits : ∀ x ∈ tags, x.2.2.length < 2 ^ 24) (hasAudio hasVideo : Bool) :
    ∀ i ∈ wrhdrThenTags hasAudio hasVideo tags, isFramer i = true ∧ wellFormed i = true := by
  refine List.forall_mem_cons.mpr ⟨⟨rfl, rfl⟩, List.forall_mem_map.mpr fun x hx => ⟨isFramer_tagInstr .., ?_⟩⟩
  rw [wellFormed_tagInstr, tagDataFits_iff]
  exact fits x hx

/-- The number of bytes they emit (R171). -/
theorem wrhdrThenTags_emits_length (hasAudio hasVideo : Bool) :
    ((wrhdrThenTags hasAudio hasVideo tags).flatMap specEmits).length = 13 + (tags.map fun x => 15 + x.2.2.length).sum := by
  have header : (specEmits (.wrhdr hasAudio hasVideo)).length = 13 := specFlvHeader_length ..
  simp only [wrhdrThenTags, List.length_flatMap, List.map_cons, List.sum_cons, List.map_map, Function.comp_def, header,
    specEmits_tagInstr_length]

end WrhdrThenTags

/-- Settles O47: the run wrote the bytes of all its commands, and their lengths add up. -/
theorem outputSizeLaw : Obligations.OutputSizeLaw := by
  intro s t hasAudio hasVideo tags hc fits run running
  have cmds : s.cmds = (wrhdrThenTags hasAudio hasVideo tags).map encode := by
    rw [hc, wrhdrThenTags, List.map_cons, List.map_map]
    rfl
  have steps : tags.length + 1 = (wrhdrThenTags hasAudio hasVideo tags).length := by simp [wrhdrThenTags]
  rw [steps] at run
  obtain ⟨-, reached⟩ := reached_of_run_framer (wrhdrThenTags_framers fits _ _) cmds run running
  rw [reached.outPos, wrhdrThenTags_emits_length, Nat.add_assoc]

end Sys2Proof.Machine
end

section
/-! SUPPORT. Errors and the halted state (60_exceptions.md R190 to R198): which answers halt the block, what an illegal word does,
and what a halted block answers. -/

namespace Sys2Proof.Machine

variable {s : State} {c : Cmd} {rest : List Cmd}

/-! ### The fatal codes -/

/-- The codes that errors raise are the four fatal ones (R191, R196). -/
theorem exists_errorName_iff_mem (c : RespCode) :
    (∃ e : ErrorName, c = e.code) ↔ c ∈ [RespCode.readFailure, .malformedFrame, .writeFailure, .illegalCommand] := by
  refine ⟨?_, exists_errorName_of_mem⟩
  rintro ⟨e, rfl⟩
  cases e <;> decide

/-- Settles O36: in a running block HALT is set by an error alone, and errors answer with the fatal codes. -/
theorem fatalCodesHalt : Obligations.FatalCodesHalt := by
  intro s t r running he hr
  rw [(step_control_of_resps he hr).isHalted_iff, exists_errorName_iff_mem, running]
  exact or_iff_right Bool.false_ne_true

/-! ### Illegal words -/

/-- An illegal word at the port of a running block raises ILLEGAL_COMMAND (R192). -/
theorem step_of_illegal_running {f : FieldId} (running : s.isHalted = false) (hc : s.cmds = c :: rest)
    (hd : decode c = .illegal f) : step s = .next ({ s with cmds := rest }.raise .illegalCommand f []) := by
  rw [step_of_illegal hc hd]
  exact unlessHalted_running { s with cmds := rest } running

/-- Settles O8: the error's next state, with the two fields of illegal words. -/
theorem illegalWordHalts : Obligations.IllegalWordHalts := by
  intro s c rest running hc
  refine ⟨fun hd => ?_, fun hd => ?_⟩
  · rw [step_of_illegal_running running hc hd, raise_eq]
    rfl
  · rw [step_of_illegal_running running hc hd, raise_eq]
    rfl

/-! ### The halted block -/

/-- Settles O10. -/
theorem everyInstructionChecksHalt : Obligations.EveryInstructionChecksHalt :=
  fun _ s hw halted => exec_halted s hw halted

/-- A halted block answers HALTED to every command that the port accepts (R88, R197). -/
theorem step_of_halted (halted : s.isHalted = true) (hc : s.cmds = c :: rest) (accepted : decode c ≠ .badLength) :
    step s = .next { s with cmds := rest }.answerHalted := by
  cases hd : decode c with
  | instr i =>
    obtain ⟨hw, -⟩ := encodeDecodeAgree c i hd
    rw [step_eq_exec hc hd]
    exact exec_halted { s with cmds := rest } hw halted
  | illegal f =>
    rw [step_of_illegal hc hd]
    exact unlessHalted_halted { s with cmds := rest } halted
  | badLength => exact absurd hd accepted

/-- Settles O9. -/
theorem haltedBlockAnswersHalted : Obligations.HaltedBlockAnswersHalted :=
  fun _ _ _ halted hc accepted => step_of_halted halted hc accepted

end Sys2Proof.Machine
end

section
/-! SUPPORT. The waiting block (70_reset_and_hazards.md R221; log 7): what a step does with no command at the port. -/

namespace Sys2Proof.Machine

/-- The case of a step beside `step_eq_exec`, `step_of_illegal` and `step_of_badLength`: the port holds no command, and the
block waits (R221; log 7). -/
theorem step_of_no_command {s : State} (hc : s.cmds = []) : step s = .next s := by
  simp only [step, takeCommand, hc]

/-- Settles O7. -/
theorem idleStepChangesNothing : Obligations.IdleStepChangesNothing :=
  fun _ hc => step_of_no_command hc

end Sys2Proof.Machine
end
